-- ==== Sys2Proof/Word.lean ====
section
/-! DEFINITION. The word types of the part: bytes of the port frames (11 section 11.6), 32-bit counters that wrap
(sequence numbers, pitch counts, run and batch numbers) and the 16-bit masks in which sets of defect codes are
carried (11, R182). -/

namespace Sys2Proof

/-- One byte of a port frame. -/
abbrev Byte := BitVec 8

/-- A 32-bit counter or number that wraps (00_scope 0.5). -/
abbrev Word32 := BitVec 32

/-- A set of the sixteen defect codes: the bit of a code's number is set for a member (R182). -/
abbrev CodeSet := BitVec 16

/-- One of the four serial ports P0 to P3. -/
abbrev PortId := Fin 4

/-- One of the sixteen station outputs O0 to O15. -/
abbrev OutId := Fin 16

/-- One of the sixteen recipe slots J0 to J15. -/
abbrev SlotId := Fin 16

/-- One of the sixteen defect codes, by its number (03 section 3.3.1). -/
abbrev Code := Fin 16

/-- One of the sixty-four profiles (02 section 2.1). -/
abbrev ProfileId := Fin 64

end Sys2Proof
end

