-- ==== Sys2Proof/Syntax.lean ====
section
/-! DEFINITION. The commands of the part: one constructor of `Instr` for each row of spec/opcode_table.json. The operands
of a catalogue command are its port and its payload fields, as numbers, in the order of the table of R182; the owner
judges their ranges. The operands of an event are what the outside gives it. -/

namespace Sys2Proof

/-- The pins of one port at the end of a reset: the two role straps (R178) and whether select is held by a transfer
that was in progress (R188). -/
structure PortPins where
  role1 : Bool
  role0 : Bool
  selHeld : Bool
  deriving DecidableEq, Repr

/-- The pins of the four ports at the end of a reset. -/
structure ResetPins where
  p0 : PortPins
  p1 : PortPins
  p2 : PortPins
  p3 : PortPins
  deriving DecidableEq, Repr

/-- The port at which a response is made, and whether a transfer that its partner began while the port was WORKING still holds
its select then (R181). -/
structure ResponsePort where
  port : PortId
  selHeld : Bool
  deriving DecidableEq, Repr

/-- A run of `samples` consecutive 25 ns samples at which ENC_A, ENC_B and ENC_Z show the levels `a`, `b`, `z` (R1). -/
structure SampleRun where
  a : Bool
  b : Bool
  z : Bool
  samples : Nat
  deriving DecidableEq, Repr

/-- What moves the angle: a run of encoder samples, or one addition of the internal drive. -/
inductive Stimulus where
  | encoder (run : SampleRun)
  | addition
  deriving DecidableEq, Repr

/-- Payload of LINE CONFIG (R182). -/
structure LineFields where
  lineLength : Nat
  gate : Nat
  count : Nat
  cpc : Nat
  countMode : Nat
  filter : Nat
  indexEnable : Nat
  indexTolerance : Nat
  stopTime : Nat
  runThreshold : Nat
  runHysteresis : Nat
  source : Nat
  backlog : Nat
  deriving DecidableEq, Repr

/-- Payload of PROBE CONFIG (R182). -/
structure ProbeFields where
  probe : Nat
  enable : Nat
  position : Nat
  onAngle : Nat
  offAngle : Nat
  badLevel : Nat
  stableTime : Nat
  kind : Nat
  code : Nat
  deriving DecidableEq, Repr

/-- Payload of OUTPUT CONFIG (R182). -/
structure OutputFields where
  output : Nat
  enable : Nat
  polarity : Nat
  station : Nat
  gating : Nat
  lon : Nat
  loff : Nat
  trimGroup : Nat
  runOnly : Nat
  omission : Nat
  deriving DecidableEq, Repr

/-- Payload of TRIM CONFIG (R182). -/
structure TrimFields where
  group : Nat
  mode : Nat
  tmin : Nat
  tmax : Nat
  upStep : Nat
  downStep : Nat
  hysteresis : Nat
  tick : Nat
  noise : Nat
  low : Nat
  high : Nat
  deriving DecidableEq, Repr

/-- Payload of POINT CONFIG (R182). -/
structure PointFields where
  point : Nat
  enable : Nat
  inspection : Nat
  deadline : Nat
  boundPort : Nat
  policy : Nat
  trimGroup : Nat
  limit : Nat
  deriving DecidableEq, Repr

/-- The recipe part of the payload of PUT RECIPE (R182). -/
structure RecipeFields where
  jobCode : Nat
  outputMap : Vector Nat 16
  rejectMask : Nat
  skipMask : Nat
  points : Nat
  batchSize : Nat
  minSpeed : Nat
  autoSample : Nat
  deriving DecidableEq, Repr

/-- The commands of the part. -/
inductive Instr where
  /-- POWER_ON (R24) -/
  | powerOn (pins : ResetPins)
  /-- RESET_PIN (R188) -/
  | resetPin (pins : ResetPins)
  /-- ENCODER_COUNT (R5) -/
  | encoderCount (run : SampleRun)
  /-- QUADRATURE_ERROR (R4) -/
  | quadratureError (run : SampleRun)
  /-- INDEX_EDGE (R9) -/
  | indexEdge (run : SampleRun)
  /-- INTERNAL_ADDITION (R12) -/
  | internalAddition
  /-- SPEED_GATE (R14) -/
  | speedGate
  /-- QUIET_GATE_STOP (R18) -/
  | quietGateStop
  /-- PROBE_SAMPLE (R52): the levels of IN0 to IN5 at this sample -/
  | probeSample (levels : Vector Bool 6)
  /-- SWITCH (R160): the stimulus of the pitch advance at which it is taken -/
  | switch (via : Stimulus)
  /-- FORCED_CLOSE (R132): the stimulus of the pitch advance that brings the count arrival -/
  | forcedClose (via : Stimulus)
  /-- TEST_PULSE_END (R89) -/
  | testPulseEnd (output : OutId)
  /-- FRAME_RECEIVED (R179) -/
  | frameReceived (port : PortId) (bytes : List Byte)
  /-- OVERLAP_TRANSFER (R180) -/
  | overlapTransfer (port : PortId) (bytes : List Byte)
  /-- RESPONSE_MADE (R181) -/
  | responseMade (made : ResponsePort)
  /-- RESPONSE_READ (R181) -/
  | responseRead (port : PortId) (bytes : List Byte)
  /-- READ_STATUS (R183) -/
  | readStatus (port : PortId)
  /-- READ_CONFIG (R184) -/
  | readConfig (port : PortId) (part : Nat)
  /-- READ_RECORD (R63) -/
  | readRecord (port : PortId) (key_by : Nat) (key : Nat)
  /-- READ_SEGMENTS (R40) -/
  | readSegments (port : PortId) (first : Nat) (count : Nat)
  /-- READ_PROFILE (R41) -/
  | readProfile (port : PortId) (profile : Nat)
  /-- READ_RECIPE (R42) -/
  | readRecipe (port : PortId) (slot : Nat)
  /-- READ_BATCH (R139) -/
  | readBatch (port : PortId)
  /-- BOX_PEEK (R148) -/
  | boxPeek (port : PortId)
  /-- NOTICE_TAKE (R187) -/
  | noticeTake (port : PortId)
  /-- LINE_CONFIG (R22) -/
  | lineConfig (port : PortId) (fields : LineFields)
  /-- SOURCE (R20) -/
  | source (port : PortId) (source : Nat)
  /-- DRIVE (R21) -/
  | drive (port : PortId) (target : Nat) (ramp : Nat)
  /-- PROBE_CONFIG (R51) -/
  | probeConfig (port : PortId) (fields : ProbeFields)
  /-- OUTPUT_CONFIG (R86) -/
  | outputConfig (port : PortId) (fields : OutputFields)
  /-- TRIM_CONFIG (R102) -/
  | trimConfig (port : PortId) (fields : TrimFields)
  /-- POINT_CONFIG (R108) -/
  | pointConfig (port : PortId) (fields : PointFields)
  /-- PUT_SEGMENTS (R34): the segments as (on-angle, W), in index order -/
  | putSegments (port : PortId) (first : Nat) (count : Nat) (segments : List (Nat × Nat))
  /-- PUT_PROFILE (R36) -/
  | putProfile (port : PortId) (profile : Nat) (first : Nat) (count : Nat) (tag : Option (Vector Byte 8))
  /-- PUT_RECIPE (R38): `recipe` is what the payload carries after its content byte, if it carries it -/
  | putRecipe (port : PortId) (slot : Nat) (content : Nat) (recipe : Option RecipeFields)
  /-- NEXT_JOB (R156) -/
  | nextJob (port : PortId) (slot : Nat) (mode : Nat) (n : Option Nat)
  /-- CANCEL_JOB (R164) -/
  | cancelJob (port : PortId)
  /-- SPLICE (R60) -/
  | splice (port : PortId) (n : Nat)
  /-- TRACK_CLEAR (R64) -/
  | trackClear (port : PortId)
  /-- FAULT_CLEAR (R172) -/
  | faultClear (port : PortId)
  /-- FORCE_REJECT (R61) -/
  | forceReject (port : PortId) (seq : Nat)
  /-- PULL_SAMPLE (R62) -/
  | pullSample (port : PortId) (n : Nat)
  /-- VERDICT (R114): `m` is the deposit index byte, 255 for absent -/
  | verdict (port : PortId) (point : Nat) (seq : Nat) (result : Nat) (m : Nat) (codes : List Nat)
  /-- POINT_RESUME (R123) -/
  | pointResume (port : PortId) (point : Nat)
  /-- SET_TRIM (R104) -/
  | setTrim (port : PortId) (group : Nat) (value : Nat)
  /-- TEST_PULSE (R88): the duration in ms -/
  | testPulse (port : PortId) (output : Nat) (duration : Nat)
  /-- BOX_TAKE (R149) -/
  | boxTake (port : PortId)
  /-- CLOSE_BATCH (R137) -/
  | closeBatch (port : PortId)
  /-- ACCEPTED_LEVEL_CHANGE (R1) -/
  | acceptedLevelChange (run : SampleRun)
  deriving DecidableEq, Repr

end Sys2Proof
end

