-- ==== Sys2Proof/Decode.lean ====
section
/-! DEFINITION. The frames of the ports: the command catalogue (11 section 11.4), the payload of every command (R182),
the command frame (11 section 11.6) and its decoding (R179). The opcode table gives no row any bits, so
`decodeTableWord` answers none. -/

namespace Sys2Proof

/-! ### Bytes, most significant byte first (R182) -/

def byte1 (v : Nat) : List Byte := [BitVec.ofNat 8 v]
def byte2 (v : Nat) : List Byte := [BitVec.ofNat 8 (v / 256), BitVec.ofNat 8 v]
def byte4 (v : Nat) : List Byte :=
  [BitVec.ofNat 8 (v / 16777216), BitVec.ofNat 8 (v / 65536), BitVec.ofNat 8 (v / 256), BitVec.ofNat 8 v]

def nat2 (a b : Byte) : Nat := a.toNat * 256 + b.toNat
def nat4 (a b c d : Byte) : Nat := a.toNat * 16777216 + b.toNat * 65536 + c.toNat * 256 + d.toNat

/-- Signed fields of the notices are two's complement. -/
def signed2 (v : Int) : List Byte := byte2 (v % 65536).toNat
def signed4 (v : Int) : List Byte := byte4 (v % 4294967296).toNat

def flagByte (f : Bool) : List Byte := [if f then 1 else 0]

/-- The 8-bit sum of the bytes. -/
def sumBytes (l : List Byte) : Byte := l.foldr (· + ·) 0

/-- The check byte that brings the 8-bit sum of the frame to 0 (11 section 11.6). -/
def checkByte (l : List Byte) : Byte := 0 - sumBytes l

/-! ### The catalogue (11 section 11.4) -/

/-- The commands of the catalogue. -/
inductive Command where
  | readStatus | readConfig | readRecord | readSegments | readProfile | readRecipe | readBatch | boxPeek | noticeTake
  | lineConfig | source | drive | probeConfig | outputConfig | trimConfig | pointConfig
  | putSegments | putProfile | putRecipe
  | nextJob | cancelJob | splice | trackClear | faultClear
  | forceReject | pullSample | verdict | pointResume | setTrim | testPulse
  | boxTake | closeBatch
  deriving DecidableEq, Repr

/-- The code of a command: the Code column of the catalogue. -/
def Command.code : Command → Nat
  | .readStatus => 0x01 | .readConfig => 0x02 | .readRecord => 0x03 | .readSegments => 0x04 | .readProfile => 0x05
  | .readRecipe => 0x06 | .readBatch => 0x07 | .boxPeek => 0x08 | .noticeTake => 0x09
  | .lineConfig => 0x10 | .source => 0x11 | .drive => 0x12 | .probeConfig => 0x13 | .outputConfig => 0x14
  | .trimConfig => 0x15 | .pointConfig => 0x16
  | .putSegments => 0x20 | .putProfile => 0x21 | .putRecipe => 0x22
  | .nextJob => 0x30 | .cancelJob => 0x31 | .splice => 0x32 | .trackClear => 0x33 | .faultClear => 0x34
  | .forceReject => 0x40 | .pullSample => 0x41 | .verdict => 0x42 | .pointResume => 0x43 | .setTrim => 0x44
  | .testPulse => 0x45 | .boxTake => 0x50 | .closeBatch => 0x51

/-- All commands of the catalogue, in the order of their codes. -/
def Command.all : List Command :=
  [.readStatus, .readConfig, .readRecord, .readSegments, .readProfile, .readRecipe, .readBatch, .boxPeek, .noticeTake,
   .lineConfig, .source, .drive, .probeConfig, .outputConfig, .trimConfig, .pointConfig, .putSegments, .putProfile,
   .putRecipe, .nextJob, .cancelJob, .splice, .trackClear, .faultClear, .forceReject, .pullSample, .verdict,
   .pointResume, .setTrim, .testPulse, .boxTake, .closeBatch]

/-- The command that a code names, or none: UNKNOWN (R179, check 2). -/
def Command.ofCode (code : Nat) : Option Command := Command.all.find? (fun c => c.code == code)

/-- The port and the catalogue command of a row, or none for an event. -/
def Instr.command? : Instr → Option (PortId × Command)
  | .powerOn _ | .resetPin _ | .encoderCount _ | .quadratureError _ | .indexEdge _ | .internalAddition | .speedGate
  | .quietGateStop | .probeSample _ | .switch _ | .forcedClose _ | .testPulseEnd _ | .frameReceived _ _
  | .overlapTransfer _ _ | .responseMade _ | .responseRead _ _ | .acceptedLevelChange _ => none
  | .readStatus p => some (p, .readStatus)
  | .readConfig p _ => some (p, .readConfig)
  | .readRecord p _ _ => some (p, .readRecord)
  | .readSegments p _ _ => some (p, .readSegments)
  | .readProfile p _ => some (p, .readProfile)
  | .readRecipe p _ => some (p, .readRecipe)
  | .readBatch p => some (p, .readBatch)
  | .boxPeek p => some (p, .boxPeek)
  | .noticeTake p => some (p, .noticeTake)
  | .lineConfig p _ => some (p, .lineConfig)
  | .source p _ => some (p, .source)
  | .drive p _ _ => some (p, .drive)
  | .probeConfig p _ => some (p, .probeConfig)
  | .outputConfig p _ => some (p, .outputConfig)
  | .trimConfig p _ => some (p, .trimConfig)
  | .pointConfig p _ => some (p, .pointConfig)
  | .putSegments p _ _ _ => some (p, .putSegments)
  | .putProfile p _ _ _ _ => some (p, .putProfile)
  | .putRecipe p _ _ _ => some (p, .putRecipe)
  | .nextJob p _ _ _ => some (p, .nextJob)
  | .cancelJob p => some (p, .cancelJob)
  | .splice p _ => some (p, .splice)
  | .trackClear p => some (p, .trackClear)
  | .faultClear p => some (p, .faultClear)
  | .forceReject p _ => some (p, .forceReject)
  | .pullSample p _ => some (p, .pullSample)
  | .verdict p _ _ _ _ _ => some (p, .verdict)
  | .pointResume p _ => some (p, .pointResume)
  | .setTrim p _ _ => some (p, .setTrim)
  | .testPulse p _ _ => some (p, .testPulse)
  | .boxTake p => some (p, .boxTake)
  | .closeBatch p => some (p, .closeBatch)

/-! ### Payloads (the table of R182) -/

def LineFields.payload (f : LineFields) : List Byte :=
  byte1 f.lineLength ++ byte1 f.gate ++ byte1 f.count ++ byte2 f.cpc ++ byte1 f.countMode ++ byte1 f.filter
    ++ byte1 f.indexEnable ++ byte1 f.indexTolerance ++ byte1 f.stopTime ++ byte2 f.runThreshold
    ++ byte1 f.runHysteresis ++ byte1 f.source ++ byte1 f.backlog

/-- The fields of PROBE CONFIG after its probe byte (also in READ CONFIG, R185). -/
def ProbeFields.tail (f : ProbeFields) : List Byte :=
  byte1 f.enable ++ byte1 f.position ++ byte2 f.onAngle ++ byte2 f.offAngle ++ byte1 f.badLevel ++ byte1 f.stableTime
    ++ byte1 f.kind ++ byte1 f.code

/-- The fields of OUTPUT CONFIG after its output byte (also in READ CONFIG, R185). -/
def OutputFields.tail (f : OutputFields) : List Byte :=
  byte1 f.enable ++ byte1 f.polarity ++ byte1 f.station ++ byte1 f.gating ++ byte2 f.lon ++ byte2 f.loff
    ++ byte1 f.trimGroup ++ byte1 f.runOnly ++ byte1 f.omission

/-- The fields of TRIM CONFIG after its group byte (also in READ CONFIG, R185). -/
def TrimFields.tail (f : TrimFields) : List Byte :=
  byte1 f.mode ++ byte1 f.tmin ++ byte1 f.tmax ++ byte1 f.upStep ++ byte1 f.downStep ++ byte1 f.hysteresis
    ++ byte1 f.tick ++ byte1 f.noise ++ byte1 f.low ++ byte1 f.high

/-- The fields of POINT CONFIG after its point byte (also in READ CONFIG, R185). -/
def PointFields.tail (f : PointFields) : List Byte :=
  byte1 f.enable ++ byte1 f.inspection ++ byte1 f.deadline ++ byte1 f.boundPort ++ byte1 f.policy ++ byte1 f.trimGroup
    ++ byte1 f.limit

/-- The fields of PUT RECIPE after its content byte (also in READ RECIPE, R185). -/
def RecipeFields.payload (f : RecipeFields) : List Byte :=
  byte4 f.jobCode ++ f.outputMap.toList.flatMap byte1 ++ byte2 f.rejectMask ++ byte2 f.skipMask ++ byte1 f.points
    ++ byte2 f.batchSize ++ byte2 f.minSpeed ++ byte2 f.autoSample

/-- The payload of a command; an event has none. -/
def Instr.payload : Instr → List Byte
  | .powerOn _ | .resetPin _ | .encoderCount _ | .quadratureError _ | .indexEdge _ | .internalAddition | .speedGate
  | .quietGateStop | .probeSample _ | .switch _ | .forcedClose _ | .testPulseEnd _ | .frameReceived _ _
  | .overlapTransfer _ _ | .responseMade _ | .responseRead _ _ | .acceptedLevelChange _ => []
  | .readStatus _ | .readBatch _ | .boxPeek _ | .noticeTake _ | .cancelJob _ | .trackClear _ | .faultClear _
  | .boxTake _ | .closeBatch _ => []
  | .readConfig _ part => byte1 part
  | .readRecord _ by_ key => byte1 by_ ++ byte4 key
  | .readSegments _ first count => byte1 first ++ byte1 count
  | .readProfile _ profile => byte1 profile
  | .readRecipe _ slot => byte1 slot
  | .lineConfig _ f => f.payload
  | .source _ src => byte1 src
  | .drive _ target ramp => byte2 target ++ byte1 ramp
  | .probeConfig _ f => byte1 f.probe ++ f.tail
  | .outputConfig _ f => byte1 f.output ++ f.tail
  | .trimConfig _ f => byte1 f.group ++ f.tail
  | .pointConfig _ f => byte1 f.point ++ f.tail
  | .putSegments _ first count segs => byte1 first ++ byte1 count ++ segs.flatMap (fun g => byte2 g.1 ++ byte2 g.2)
  | .putProfile _ profile first count tag =>
    byte1 profile ++ byte1 first ++ byte1 count ++ (tag.map Vector.toList).getD []
  | .putRecipe _ slot content recipe => byte1 slot ++ byte1 content ++ (recipe.map RecipeFields.payload).getD []
  | .nextJob _ slot mode n => byte1 slot ++ byte1 mode ++ (n.map byte2).getD []
  | .splice _ n => byte1 n
  | .forceReject _ seq => byte4 seq
  | .pullSample _ n => byte1 n
  | .verdict _ point seq result m codes =>
    byte1 point ++ byte4 seq ++ byte1 result ++ byte1 m ++ byte1 codes.length ++ codes.flatMap byte1
  | .pointResume _ point => byte1 point
  | .setTrim _ group value => byte1 group ++ byte1 value
  | .testPulse _ output duration => byte1 output ++ byte2 duration

/-- The command frame of a code and a payload (11 section 11.6). -/
def frameBytes (code : Nat) (payload : List Byte) : List Byte :=
  let body := byte1 code ++ byte1 payload.length ++ payload
  body ++ [checkByte body]

/-- The command frame of a row; an event has none. -/
def Instr.frame (c : Instr) : List Byte :=
  match c.command? with
  | some (_, k) => frameBytes k.code c.payload
  | none => []

/-! ### Decoding a payload: a command, or none for a length the table does not give (R179, check 4) -/

/-- The segments of PUT SEGMENTS, four bytes each; none if the bytes do not come out even. -/
def decodeSegments : List Byte → Option (List (Nat × Nat))
  | [] => some []
  | a :: b :: c :: d :: rest => (decodeSegments rest).map (fun l => (nat2 a b, nat2 c d) :: l)
  | _ => none

def decodeLineConfig (p : PortId) : List Byte → Option Instr
  | [len, gate, count, c1, c0, mode, filter, ie, it, stop, r1, r0, hys, src, back] =>
    some (.lineConfig p ⟨len.toNat, gate.toNat, count.toNat, nat2 c1 c0, mode.toNat, filter.toNat, ie.toNat, it.toNat,
      stop.toNat, nat2 r1 r0, hys.toNat, src.toNat, back.toNat⟩)
  | _ => none

def decodeProbeConfig (p : PortId) : List Byte → Option Instr
  | [probe, en, pos, a1, a0, o1, o0, bad, stable, kind, code] =>
    some (.probeConfig p ⟨probe.toNat, en.toNat, pos.toNat, nat2 a1 a0, nat2 o1 o0, bad.toNat, stable.toNat, kind.toNat,
      code.toNat⟩)
  | _ => none

def decodeOutputConfig (p : PortId) : List Byte → Option Instr
  | [out, en, pol, station, cls, n1, n0, f1, f0, group, runOnly, omission] =>
    some (.outputConfig p ⟨out.toNat, en.toNat, pol.toNat, station.toNat, cls.toNat, nat2 n1 n0, nat2 f1 f0,
      group.toNat, runOnly.toNat, omission.toNat⟩)
  | _ => none

def decodeTrimConfig (p : PortId) : List Byte → Option Instr
  | [group, mode, tmin, tmax, up, down, h, k, noise, low, high] =>
    some (.trimConfig p ⟨group.toNat, mode.toNat, tmin.toNat, tmax.toNat, up.toNat, down.toNat, h.toNat, k.toNat,
      noise.toNat, low.toNat, high.toNat⟩)
  | _ => none

def decodePointConfig (p : PortId) : List Byte → Option Instr
  | [point, en, i, d, port, policy, group, limit] =>
    some (.pointConfig p ⟨point.toNat, en.toNat, i.toNat, d.toNat, port.toNat, policy.toNat, group.toNat, limit.toNat⟩)
  | _ => none

def decodeRecipe : List Byte → Option RecipeFields
  | [j3, j2, j1, j0, m0, m1, m2, m3, m4, m5, m6, m7, m8, m9, m10, m11, m12, m13, m14, m15, r1, r0, s1, s0, points,
     b1, b0, v1, v0, a1, a0] =>
    some ⟨nat4 j3 j2 j1 j0,
      #v[m0.toNat, m1.toNat, m2.toNat, m3.toNat, m4.toNat, m5.toNat, m6.toNat, m7.toNat, m8.toNat, m9.toNat, m10.toNat,
        m11.toNat, m12.toNat, m13.toNat, m14.toNat, m15.toNat],
      nat2 r1 r0, nat2 s1 s0, points.toNat, nat2 b1 b0, nat2 v1 v0, nat2 a1 a0⟩
  | _ => none

/-- A payload that must be empty. -/
def decodeEmpty (c : Instr) : List Byte → Option Instr
  | [] => some c
  | _ => none

/-- A payload of one byte. -/
def decodeOne (c : Nat → Instr) : List Byte → Option Instr
  | [a] => some (c a.toNat)
  | _ => none

/-- The command that a payload of the catalogue's command `k` carries on port `p`. -/
def decodePayload (p : PortId) (k : Command) (bytes : List Byte) : Option Instr :=
  match k with
  | .readStatus => decodeEmpty (.readStatus p) bytes
  | .readConfig => decodeOne (.readConfig p) bytes
  | .readRecord =>
    match bytes with
    | [b, k3, k2, k1, k0] => some (.readRecord p b.toNat (nat4 k3 k2 k1 k0))
    | _ => none
  | .readSegments =>
    match bytes with
    | [first, count] => some (.readSegments p first.toNat count.toNat)
    | _ => none
  | .readProfile => decodeOne (.readProfile p) bytes
  | .readRecipe => decodeOne (.readRecipe p) bytes
  | .readBatch => decodeEmpty (.readBatch p) bytes
  | .boxPeek => decodeEmpty (.boxPeek p) bytes
  | .noticeTake => decodeEmpty (.noticeTake p) bytes
  | .lineConfig => decodeLineConfig p bytes
  | .source => decodeOne (.source p) bytes
  | .drive =>
    match bytes with
    | [t1, t0, r] => some (.drive p (nat2 t1 t0) r.toNat)
    | _ => none
  | .probeConfig => decodeProbeConfig p bytes
  | .outputConfig => decodeOutputConfig p bytes
  | .trimConfig => decodeTrimConfig p bytes
  | .pointConfig => decodePointConfig p bytes
  | .putSegments =>
    match bytes with
    | first :: count :: rest =>
      match decodeSegments rest with
      | some segs => if segs.length = count.toNat then some (.putSegments p first.toNat count.toNat segs) else none
      | none => none
    | _ => none
  | .putProfile =>
    match bytes with
    | [profile, first, count] => some (.putProfile p profile.toNat first.toNat count.toNat none)
    | [profile, first, count, t0, t1, t2, t3, t4, t5, t6, t7] =>
      some (.putProfile p profile.toNat first.toNat count.toNat (some #v[t0, t1, t2, t3, t4, t5, t6, t7]))
    | _ => none
  | .putRecipe =>
    match bytes with
    | [slot, content] => some (.putRecipe p slot.toNat content.toNat none)
    | slot :: content :: rest => (decodeRecipe rest).map (fun r => .putRecipe p slot.toNat content.toNat (some r))
    | _ => none
  | .nextJob =>
    match bytes with
    | [slot, mode] => some (.nextJob p slot.toNat mode.toNat none)
    | [slot, mode, n1, n0] => some (.nextJob p slot.toNat mode.toNat (some (nat2 n1 n0)))
    | _ => none
  | .cancelJob => decodeEmpty (.cancelJob p) bytes
  | .splice => decodeOne (.splice p) bytes
  | .trackClear => decodeEmpty (.trackClear p) bytes
  | .faultClear => decodeEmpty (.faultClear p) bytes
  | .forceReject =>
    match bytes with
    | [s3, s2, s1, s0] => some (.forceReject p (nat4 s3 s2 s1 s0))
    | _ => none
  | .pullSample => decodeOne (.pullSample p) bytes
  | .verdict =>
    match bytes with
    | point :: s3 :: s2 :: s1 :: s0 :: result :: m :: c :: codes =>
      if codes.length = c.toNat then
        some (.verdict p point.toNat (nat4 s3 s2 s1 s0) result.toNat m.toNat (codes.map BitVec.toNat))
      else none
    | _ => none
  | .pointResume => decodeOne (.pointResume p) bytes
  | .setTrim =>
    match bytes with
    | [group, value] => some (.setTrim p group.toNat value.toNat)
    | _ => none
  | .testPulse =>
    match bytes with
    | [out, d1, d0] => some (.testPulse p out.toNat (nat2 d1 d0))
    | _ => none
  | .boxTake => decodeEmpty (.boxTake p) bytes
  | .closeBatch => decodeEmpty (.closeBatch p) bytes

/-- The frame check of R179: the code and the payload, or none for a FRAME-bad frame. The bytes after the check byte are
ignored. -/
def checkFrame : List Byte → Option (Nat × List Byte)
  | code :: len :: rest =>
    if len.toNat > 60 then none
    else if rest.length < len.toNat + 1 then none
    else if sumBytes (code :: len :: rest.take (len.toNat + 1)) ≠ 0 then none
    else some (code.toNat, rest.take len.toNat)
  | _ => none

/-- No row of the opcode table has bits: no word spells a command. -/
def decodeTableWord (nbits w : Nat) : Option Instr :=
  match nbits, w with
  | _, _ => none

end Sys2Proof
end

