-- ==== Sys2Proof/Config.lean ====
section
/-! DEFINITION. The free values: what the manual leaves open and the machine goes on with. They have no body, so no
proof can see their value; each is applied to the counter `State.fresh`, which the step advances (log entries 8, 9). -/

namespace Sys2Proof

/-- Which of two orders the part takes where the manual says that either may come first: the hold causes of one
pitch advance (R174, R176) and the two faults of one encoder sample (R169). Log entry 9. -/
opaque Config.freeOrder : Nat → Bool

/-- Which inspection point comes first where the arrivals of one pitch advance set several hold causes (R174, R176). Log
entry 9. -/
opaque Config.freePoint : Nat → Fin 4

/-- Which of the hold causes that one pitch advance sets have been handed over with the first of them by the time HOLD CHANGED
is made, so that it names them too: IP0 to IP3 in bits 0 to 3, the backlog in bit 4 (R176). Log entry 9. -/
opaque Config.freeCauses : Nat → BitVec 5

/-- Whether a PULSE-DIR count is forward when ENC_B has no accepted level yet (R3 reads "the accepted level of ENC_B",
and R1 leaves it unestablished for the first stability time after reset). Log entry 8. -/
opaque Config.freeDirection : Nat → Bool

end Sys2Proof
end

