-- ==== Sys2Proof/Machine/Blocks.lean ====
section
/-! DEFINITION. The state of the eleven blocks of the part (00_scope section 0.3), each a structure with the items that its
chapter's state table names. Enumerated values stand in the order of the manual's own lists, since that order is their code in
frames (R182). -/

namespace Sys2Proof.Machine

/-! ### Enumerations -/

inductive Direction where | forward | reverse
  deriving DecidableEq, Repr

inductive LineState where | stopped | crawl | run | reverse
  deriving DecidableEq, Repr

inductive CountMode where | x1 | x2 | x4 | pulseDir
  deriving DecidableEq, Repr

inductive Source where | encoder | internal
  deriving DecidableEq, Repr

/-- The role of a port (R178). -/
inductive Role where | line | inspect | pack | service
  deriving DecidableEq, Repr

inductive Fate where | undecided | good | reject | sample | void
  deriving DecidableEq, Repr

inductive PointStatus where | notRequired | open_ | passed | failed | timedOut
  deriving DecidableEq, Repr

inductive GatingClass where | always | present | reject | sample | closing
  deriving DecidableEq, Repr

inductive TrimMode where | auto | manual
  deriving DecidableEq, Repr

/-- The direction of a trim step or request; NONE is the absence of one. -/
inductive StepDir where | up | down
  deriving DecidableEq, Repr

inductive TimeoutPolicy where | reject | pass
  deriving DecidableEq, Repr

inductive CloseReason where | full | runEnd | forced | clear
  deriving DecidableEq, Repr

inductive TrackFault where | reverseOverrun | indexSlip | quadratureError
  deriving DecidableEq, Repr

inductive ResetCause where | powerOn | resetPin
  deriving DecidableEq, Repr

/-- The status codes of section 11.3. -/
inductive Status where
  | ok | frame | unknown | role | range | state | inUse | emptySlot | armed | pending | notArmed | early | late
  | duplicate | notExpected | noRecord | full | empty
  deriving DecidableEq, Repr

/-! ### Position Unit (01) -/

/-- A level that differs from the accepted one, held for `samples` samples so far; `filter` is the FILTER value in force
when the level changed (R1). -/
structure Hold where
  level : Bool
  samples : Nat
  filter : Nat
  deriving DecidableEq, Repr

/-- The filter of one encoder input. `accepted` is none until the first acceptance after reset (R1). -/
structure InputFilter where
  accepted : Option Bool
  holding : Option Hold
  deriving DecidableEq, Repr

/-- The LINE CONFIG record (01 section 1.9.3). -/
structure LineConfig where
  lineLength : Nat
  gate : Nat
  count : Nat
  cpc : Nat
  countMode : CountMode
  filter : Nat
  indexEnable : Bool
  indexTolerance : Nat
  stopTime : Nat
  runThreshold : Nat
  runHysteresis : Nat
  source : Source
  backlog : Nat
  deriving DecidableEq, Repr

/-- The net counts of the last four speed gates, `g0` the oldest. -/
structure GateHistory where
  g0 : Int
  g1 : Int
  g2 : Int
  g3 : Int
  deriving DecidableEq, Repr

/-- Position Unit (01 section 1.1). `backlash` is b = 1; `saturated` is the overspeed state SATURATED; `acc` is the
accumulator in 65,536ths of a point. -/
structure PU where
  encA : InputFilter
  encB : InputFilter
  encZ : InputFilter
  e : Nat
  angle : Nat
  backlash : Bool
  dir : Direction
  pitch : Word32
  gates : GateHistory
  interval : Int
  speed : Nat
  speedDir : Direction
  saturated : Bool
  quiet : Nat
  lineState : LineState
  acc : Nat
  sd : Nat
  target : Nat
  ramp : Nat
  config : LineConfig
  deriving DecidableEq, Repr

/-! ### Recipe Store (02) -/

/-- A segment: on-angle and width (R25). -/
structure Segment where
  theta : Nat
  width : Nat
  deriving DecidableEq, Repr

/-- A profile: a range of segments, undefined when `count` is 0 (R26). -/
structure Profile where
  first : Nat
  count : Nat
  tag : Option (Vector Byte 8)
  deriving DecidableEq, Repr

/-- A recipe (R28). -/
structure Recipe where
  jobCode : Word32
  outputMap : Vector (Option ProfileId) 16
  rejectMask : CodeSet
  skipMask : CodeSet
  points : Vector Bool 4
  batchSize : Nat
  minSpeed : Nat
  autoSample : Nat
  deriving DecidableEq, Repr

/-- Recipe Store (02 section 2.1). A slot that is none is EMPTY. -/
structure RS where
  segments : Vector Segment 256
  profiles : Vector Profile 64
  slots : Vector (Option Recipe) 16
  deriving DecidableEq, Repr

/-! ### Tracking Line (03) -/

/-- A tracking record (03 section 3.3). `void` is the present field's VOID. -/
structure Record where
  seq : Word32
  run : Option Word32
  slot : Option SlotId
  birthPitch : Word32
  void : Bool
  defects : CodeSet
  status : Vector PointStatus 4
  deposit : Option Nat
  fate : Fate
  closing : Bool
  batch : Option Word32
  lastOfRun : Bool
  deriving DecidableEq, Repr

/-- A run record (R57). -/
structure RunRecord where
  number : Word32
  slot : SlotId
  jobCode : Word32
  firstSeq : Word32
  lastSeq : Option Word32
  births : Word32
  voids : Word32
  good : Word32
  reject : Word32
  sample : Word32
  autoCount : Nat
  deriving DecidableEq, Repr

/-- The kind of a probe: BLANK, or DEFECT with a code (03 section 3.7.1). -/
inductive ProbeKind where
  | blank
  | defect (code : Code)
  deriving DecidableEq, Repr

/-- A probe configuration (03 section 3.7.1). -/
structure ProbeConfig where
  enable : Bool
  position : Nat
  onAngle : Nat
  offAngle : Nat
  badHigh : Bool
  stableTime : Nat
  kind : ProbeKind
  deriving DecidableEq, Repr

/-- A probe: its configuration, its seen-bad flag, the seq of the record it evaluated last, and how many samples in a row
have shown the bad level (up to 256; R52, log entry 7). -/
structure ProbeUnit where
  config : ProbeConfig
  seenBad : Bool
  lastEval : Option Word32
  badRun : Nat
  deriving DecidableEq, Repr

/-- Tracking Line (03 section 3.1). The record at index p of `ring` stands at position p. `born` says whether a record has
been born since power-on (R45). -/
structure TL where
  ring : List Record
  nextSeq : Word32
  born : Bool
  current : Option RunRecord
  ending : Option RunRecord
  nextRun : Word32
  splice : Nat
  pulls : Nat
  probes : Vector ProbeUnit 6
  deriving DecidableEq, Repr

/-! ### Firing Unit (04) -/

/-- A channel configuration (04 section 4.10.1). -/
structure OutputConfig where
  enable : Bool
  activeHigh : Bool
  station : Nat
  gating : GatingClass
  lon : Nat
  loff : Nat
  trim : Option (Fin 3)
  runOnly : Bool
  omission : Option Code
  deriving DecidableEq, Repr

/-- An armed occurrence (04 section 4.1): `k` counts the pitch advances since arming, `on` is x_on. -/
structure Occurrence where
  seq : Word32
  segment : Nat
  theta : Nat
  width : Nat
  k : Nat
  on : Int
  expiry : Int
  deriving DecidableEq, Repr

/-- A pulse in progress (04 section 4.1): `off` is the latched x_off. -/
structure Pulse where
  seq : Word32
  segment : Nat
  off : Int
  k : Nat
  deriving DecidableEq, Repr

/-- One output: configuration, advances, clamp state, occurrence list, pulse list, and the remaining microseconds of its
test pulse. -/
structure OutputUnit where
  config : OutputConfig
  aOn : Nat
  aOff : Nat
  clamped : Bool
  armed : List Occurrence
  pulses : List Pulse
  test : Option Nat
  deriving DecidableEq, Repr

/-- Firing Unit (04 section 4.1). -/
structure FU where
  outputs : Vector OutputUnit 16
  deriving DecidableEq, Repr

/-! ### Trim Regulator (05) -/

/-- A trim group's configuration (05 section 5.4.1). -/
structure TrimConfig where
  mode : TrimMode
  tmin : Nat
  tmax : Nat
  upStep : Nat
  downStep : Nat
  hysteresis : Nat
  tick : Nat
  noise : Nat
  low : Nat
  high : Nat
  deriving DecidableEq, Repr

/-- A trim group (05 section 5.1). -/
structure TrimGroup where
  config : TrimConfig
  t : Nat
  lastStep : Option StepDir
  request : Option StepDir
  count : Nat
  lastPitch : Word32
  deriving DecidableEq, Repr

/-- Trim Regulator. -/
structure TR where
  groups : Vector TrimGroup 3
  deriving DecidableEq, Repr

/-! ### Inspection Unit (06) -/

/-- An inspection point's configuration (06 section 6.2.1): positions I and D. -/
structure PointConfig where
  enable : Bool
  inspection : Nat
  deadline : Nat
  port : PortId
  policy : TimeoutPolicy
  trim : Option (Fin 3)
  limit : Nat
  deriving DecidableEq, Repr

/-- An inspection point (06 section 6.1). -/
structure PointUnit where
  config : PointConfig
  offline : Bool
  timeouts : Nat
  deriving DecidableEq, Repr

/-- Inspection Unit. -/
structure IU where
  points : Vector PointUnit 4
  deriving DecidableEq, Repr

/-! ### Count Unit (07) and Box Queue (08) -/

/-- What the first GOOD record gives the open batch, and the latest seq: present exactly when the good count is at least 1
(07 section 7.1 Remark). -/
structure BatchOwner where
  run : Word32
  slot : SlotId
  jobCode : Word32
  firstSeq : Word32
  lastSeq : Word32
  deriving DecidableEq, Repr

/-- The open batch record (07 section 7.1). -/
structure OpenBatch where
  number : Word32
  owner : Option BatchOwner
  good : Word32
  reject : Word32
  sample : Word32
  suspect : Word32
  overrun : Bool
  deriving DecidableEq, Repr

/-- Count Unit (07 section 7.1). -/
structure CU where
  batch : OpenBatch
  nextBatch : Word32
  forcePending : Bool
  deriving DecidableEq, Repr

/-- A box entry (08 section 8.1). -/
structure BoxEntry where
  number : Word32
  owner : BatchOwner
  good : Word32
  reject : Word32
  sample : Word32
  suspect : Word32
  reason : CloseReason
  overrun : Bool
  deriving DecidableEq, Repr

/-- Box Queue (08 section 8.1), oldest entry first. The occupancy is the length of the list; the threshold is the
backlog field of LINE CONFIG. -/
structure BQ where
  entries : List BoxEntry
  standing : Bool
  deriving DecidableEq, Repr

/-! ### Changeover Control (09) -/

/-- When the armed job's switch is due. -/
inductive JobMode where
  | immediate
  | afterBirths (n : Nat)
  deriving DecidableEq, Repr

/-- The armed job; slot none is the slot NONE. -/
structure ArmedJob where
  slot : Option SlotId
  mode : JobMode
  deriving DecidableEq, Repr

/-- The run that CC holds as current. -/
structure CurrentRun where
  number : Word32
  slot : SlotId
  deriving DecidableEq, Repr

/-- A pending transition: the ending run's number and the seq of its last-of-run record. -/
structure Transition where
  run : Word32
  lastSeq : Word32
  deriving DecidableEq, Repr

/-- Changeover Control (09 section 9.1). -/
structure CC where
  current : Option CurrentRun
  armed : Option ArmedJob
  births : Nat
  lastCounted : Option Word32
  deferred : Bool
  transition : Option Transition
  deriving DecidableEq, Repr

/-! ### Fault and Hold Logic (10) -/

/-- One tracking fault: latched or not, and its raise count. -/
structure FaultLatch where
  latched : Bool
  count : Nat
  deriving DecidableEq, Repr

/-- Fault and Hold Logic (10 section 10.1). -/
structure FH where
  reverseOverrun : FaultLatch
  indexSlip : FaultLatch
  quadratureError : FaultLatch
  offline : Vector Bool 4
  backlog : Bool
  hold : Bool
  deriving DecidableEq, Repr

/-! ### Port Interface (11) -/

/-- A set of tracking faults, as notices and payloads carry it (R182). -/
structure FaultSet where
  reverseOverrun : Bool
  indexSlip : Bool
  quadratureError : Bool
  deriving DecidableEq, Repr

/-- The notices of section 11.7, each with the fields of its row. -/
inductive Notice where
  | restart (cause : ResetCause) (role : Role)
  | lineState (new old : LineState) (speed : Nat)
  | overspeed (sum4 : Int) (dir : Direction)
  | trackingFault (fault : TrackFault) (e : Nat) (backlash : Bool) (angle marked : Nat) (error : Int)
  | holdChanged (level : Bool) (faults : FaultSet) (offline : Vector Bool 4) (backlog : Bool)
  | runStarted (run : Option (CurrentRun × Word32)) (firstSeq : Word32) (ending : Option Transition)
  | switchDeferred (slot : Option SlotId) (mode : JobMode) (births occupancy : Nat)
  | runEnded (record : RunRecord)
  | arrival (point : Fin 4) (seq : Word32) (run : Option Word32) (slot : Option SlotId)
  | verdictMissed (point : Fin 4) (seq : Word32) (run : Option Word32) (slot : Option SlotId) (policy : TimeoutPolicy)
      (count : Nat)
  | pointOffline (point : Fin 4) (seq : Word32) (limit : Nat)
  | trimLimit (group : Fin 3) (high : Bool) (t : Nat) (dir : StepDir) (m : Nat)
  | timingLimit (output : OutId) (clamped : Bool) (speed rawOn rawOff : Nat)
  | batchClosed (number : Word32) (reason : CloseReason) (good : Word32)
  | backlog (occupancy threshold : Nat) (oldest : Word32)
  deriving DecidableEq, Repr

/-- A notice with the pitch count standing at its event (11 section 11.7). -/
structure NoticeRecord where
  pitch : Word32
  notice : Notice
  deriving DecidableEq, Repr

/-- An owner's answer. `overflow` is set by NOTICE TAKE alone: the overflow flag as it stood when the command was taken
(R187). -/
structure Answer where
  status : Status
  payload : List Byte
  overflow : Option Bool
  deriving DecidableEq, Repr

/-- The transfer state of a port with its buffer (11 section 11.2): WORKING with the command in flight or with the owner's
answer, ANSWER with the response frame. -/
inductive Transfer where
  | idle
  | inFlight (command : Instr)
  | answered (answer : Answer)
  | answer (response : List Byte)
  deriving DecidableEq, Repr

/-- One port (00_scope section 0.3, 11). `ignoring` is set while a transfer still has its select held that was in progress at
the end of reset (R188) or at the making of the response (R181); `sent` is what the part clocked out on Pn_DO in the latest
transfer. -/
structure Port where
  role : Role
  transfer : Transfer
  overlap : Bool
  overflow : Bool
  queue : List NoticeRecord
  ignoring : Bool
  sent : List Byte
  deriving DecidableEq, Repr

end Sys2Proof.Machine
end

