-- ==== Sys2Proof/Machine/PowerOn.lean ====
section
/-! DEFINITION. The values of every block after power-on and after the RESET pin (R24, R43, R66, R91, R106, R125, R143, R154,
R168, R177, R188). -/

namespace Sys2Proof.Machine

/-- LINE CONFIG at its power-on values (01 section 1.9.3). -/
def LineConfig.powerOn : LineConfig where
  lineLength := 16
  gate := 12
  count := 14
  cpc := 4096
  countMode := .x4
  filter := 3
  indexEnable := false
  indexTolerance := 8
  stopTime := 10
  runThreshold := 600
  runHysteresis := 30
  source := .encoder
  backlog := 12

/-- R1: no accepted level yet, nothing held. -/
def InputFilter.powerOn : InputFilter := ⟨none, none⟩

def GateHistory.zero : GateHistory := ⟨0, 0, 0, 0⟩

/-- R24. -/
def PU.powerOn : PU where
  encA := .powerOn
  encB := .powerOn
  encZ := .powerOn
  e := 0
  angle := 0
  backlash := false
  dir := .forward
  pitch := 0
  gates := .zero
  interval := 0
  speed := 0
  speedDir := .forward
  saturated := false
  quiet := 0
  lineState := .stopped
  acc := 0
  sd := 0
  target := 0
  ramp := 50
  config := .powerOn

/-- R43. -/
def RS.powerOn : RS where
  segments := Vector.replicate 256 ⟨0, 1⟩
  profiles := Vector.replicate 64 ⟨0, 0, none⟩
  slots := Vector.replicate 16 none

/-- 03 section 3.7.1: OFF, position 0, on-angle 0, off-angle 1, HIGH, stable time 0, DEFECT AUX. -/
def ProbeUnit.powerOn : ProbeUnit := ⟨⟨false, 0, 0, 1, true, 0, .defect 15⟩, false, none, 0⟩

/-- R66. -/
def TL.powerOn : TL where
  ring := []
  nextSeq := 0
  born := false
  current := none
  ending := none
  nextRun := 1
  splice := 0
  pulls := 0
  probes := Vector.replicate 6 .powerOn

/-- 04 section 4.10.1. -/
def OutputConfig.powerOn : OutputConfig where
  enable := false
  activeHigh := true
  station := 1
  gating := .present
  lon := 0
  loff := 0
  trim := none
  runOnly := false
  omission := none

/-- R91. -/
def OutputUnit.powerOn : OutputUnit := ⟨.powerOn, 0, 0, false, [], [], none⟩

def FU.powerOn : FU := ⟨Vector.replicate 16 .powerOn⟩

/-- R106 and 05 section 5.4.1. -/
def TrimGroup.powerOn : TrimGroup where
  config := ⟨.manual, 32, 255, 2, 2, 1, 10, 8, 40, 90⟩
  t := 128
  lastStep := none
  request := none
  count := 0
  lastPitch := 0

def TR.powerOn : TR := ⟨Vector.replicate 3 .powerOn⟩

/-- R125. -/
def PointUnit.powerOn : PointUnit := ⟨⟨false, 1, 2, 0, .reject, none, 8⟩, false, 0⟩

def IU.powerOn : IU := ⟨Vector.replicate 4 .powerOn⟩

/-- The values of a batch when it opens (07 section 7.1, R126). -/
def OpenBatch.opened (number : Word32) : OpenBatch := ⟨number, none, 0, 0, 0, 0, false⟩

/-- R143. -/
def CU.powerOn : CU := ⟨.opened 1, 1, false⟩

/-- R154. -/
def BQ.powerOn : BQ := ⟨[], false⟩

/-- R168. -/
def CC.powerOn : CC := ⟨none, none, 0, none, false, none⟩

/-- R177. -/
def FH.powerOn : FH where
  reverseOverrun := ⟨false, 0⟩
  indexSlip := ⟨false, 0⟩
  quadratureError := ⟨false, 0⟩
  offline := Vector.replicate 4 false
  backlog := false
  hold := false

/-- The role that the two strap pins give (R178). -/
def Role.ofStraps (role1 role0 : Bool) : Role :=
  match role1, role0 with
  | false, false => .line
  | false, true => .inspect
  | true, false => .pack
  | true, true => .service

/-- R188: role from the straps, IDLE, flags clear, one RESTART notice. -/
def Port.afterReset (cause : ResetCause) (pins : PortPins) : Port where
  role := .ofStraps pins.role1 pins.role0
  transfer := .idle
  overlap := false
  overflow := false
  queue := [⟨0, .restart cause (.ofStraps pins.role1 pins.role0)⟩]
  ignoring := pins.selHeld
  sent := []

def portsAfterReset (cause : ResetCause) (pins : ResetPins) : Vector Port 4 :=
  #v[.afterReset cause pins.p0, .afterReset cause pins.p1, .afterReset cause pins.p2, .afterReset cause pins.p3]

/-- DESIGN CHOICE (log entry 6): the straps of the reset state make P0 LINE, P1 INSPECT, P2 PACK and P3 SERVICE. -/
def standardPins : ResetPins :=
  ⟨⟨false, false, false⟩, ⟨false, true, false⟩, ⟨true, false, false⟩, ⟨true, true, false⟩⟩

end Sys2Proof.Machine
end

