-- ==== Sys2Proof/Machine/State.lean ====
section
/-! DEFINITION. The state of the part: its eleven blocks, the queue of waiting commands and the model's counter of free
values; the state after reset; how a step can stop. -/

namespace Sys2Proof.Machine

/-- No fault stops the part: its tracking faults are latched state (R169) and its refusals are answers (11 section 11.3).
Log entry 26. -/
inductive Fault where
  deriving DecidableEq, Repr

/-- Why a command has no meaning. -/
inductive Refusal where
  /-- Raised by `exec` alone, for a row that has no meaning yet. Safe: nothing is claimed about that row. -/
  | notModelled (mnemonic : String)
  deriving DecidableEq, Repr

/-- The machine's state: one field for each block of 00_scope section 0.3, `fresh` (the model's own counter, which selects free
values) and `pending` (the commands that wait, first in, first out). -/
structure State where
  pu : PU
  rs : RS
  tl : TL
  fu : FU
  tr : TR
  iu : IU
  cu : CU
  bq : BQ
  cc : CC
  fh : FH
  ports : Vector Port 4
  fresh : Nat
  pending : List Instr
  deriving DecidableEq, Repr

/-- The part after power-on or the RESET pin with the given pins; the model's counter and the queue are the model's own and
are kept by whoever resets (log entry 23). -/
def State.afterReset (cause : ResetCause) (pins : ResetPins) (fresh : Nat) (pending : List Instr) : State where
  pu := .powerOn
  rs := .powerOn
  tl := .powerOn
  fu := .powerOn
  tr := .powerOn
  iu := .powerOn
  cu := .powerOn
  bq := .powerOn
  cc := .powerOn
  fh := .powerOn
  ports := portsAfterReset cause pins
  fresh := fresh
  pending := pending

/-- The machine right after power-on, with the straps of log entry 6 and an empty queue. -/
def State.reset : State := .afterReset .powerOn standardPins 0 []

/-! One update for each field; `Sys2Proof/Laws/State.lean` says what each leaves alone. -/

def State.withPu (s : State) (v : PU) : State := { s with pu := v }
def State.withRs (s : State) (v : RS) : State := { s with rs := v }
def State.withTl (s : State) (v : TL) : State := { s with tl := v }
def State.withFu (s : State) (v : FU) : State := { s with fu := v }
def State.withTr (s : State) (v : TR) : State := { s with tr := v }
def State.withIu (s : State) (v : IU) : State := { s with iu := v }
def State.withCu (s : State) (v : CU) : State := { s with cu := v }
def State.withBq (s : State) (v : BQ) : State := { s with bq := v }
def State.withCc (s : State) (v : CC) : State := { s with cc := v }
def State.withFh (s : State) (v : FH) : State := { s with fh := v }
def State.withPorts (s : State) (v : Vector Port 4) : State := { s with ports := v }
def State.withFresh (s : State) (v : Nat) : State := { s with fresh := v }
def State.withPending (s : State) (v : List Instr) : State := { s with pending := v }

end Sys2Proof.Machine
end

