-- ==== Sys2Proof/Machine/Ops.lean ====
section
/-! DEFINITION. The named operations the blocks share: reading and writing one item of a block, arithmetic with the manual's
rounding and saturation, sets of defect codes, the ring, and the queueing of notices (R186). -/

namespace Sys2Proof.Machine

/-! ### Arithmetic (00_scope section 0.5) -/

/-- Round half up of the non-negative quotient a / b. -/
def roundDiv (a b : Nat) : Nat := (2 * a + b) / (2 * b)

/-- The nearer end of the range, or the value within it. -/
def clampInt (lo hi v : Int) : Int := max lo (min hi v)

/-- A 32-bit count that saturates. -/
def satInc (c : Word32) : Word32 := if c = 0xFFFFFFFF#32 then c else c + 1

/-! ### Defect codes -/

/-- The numbers of section 3.3.1. -/
def Code.ramp : Code := 0
def Code.splice : Code := 1
def Code.disturbed : Code := 2
def Code.forced : Code := 3
def Code.verdictTimeout : Code := 4
def Code.visionFail : Code := 5
def Code.gumAbsent : Code := 6
def Code.timingLimit : Code := 14

/-- The set of one code. -/
def codeSet (c : Code) : CodeSet := 1#16 <<< c.val

/-- Whether the set holds the code. -/
def hasCode (s : CodeSet) (c : Code) : Bool := s.getLsbD c.val

/-- The set with the code added; a code it holds already changes nothing (R46). -/
def addCode (s : CodeSet) (c : Code) : CodeSet := s ||| codeSet c

/-- Whether two sets have a code in common. -/
def meets (s t : CodeSet) : Bool := s &&& t != 0#16

/-- Adds the code to the record's defects (R46). -/
def Record.addDefect (r : Record) (c : Code) : Record := { r with defects := addCode r.defects c }

/-- Adds every code of a list. -/
def Record.addDefects (r : Record) (cs : List Code) : Record := cs.foldl Record.addDefect r

def Record.setStatus (r : Record) (p : Fin 4) (st : PointStatus) : Record := { r with status := r.status.set p st }

/-! ### Index lists -/

def allPorts : List PortId := [0, 1, 2, 3]
def allPoints : List (Fin 4) := [0, 1, 2, 3]
def allProbes : List (Fin 6) := [0, 1, 2, 3, 4, 5]
def allOutputs : List OutId := [0, 1, 2, 3, 4, 5, 6, 7, 8, 9, 10, 11, 12, 13, 14, 15]
def allSlots : List SlotId := [0, 1, 2, 3, 4, 5, 6, 7, 8, 9, 10, 11, 12, 13, 14, 15]

/-! ### Items of the blocks -/

/-- The LINE CONFIG record in force. -/
def State.config (s : State) : LineConfig := s.pu.config

/-- The position at which the fate is decided: one upstream of the gate (00_scope section 0.6). -/
def LineConfig.decision (c : LineConfig) : Nat := c.gate - 1

def State.port (s : State) (p : PortId) : Port := s.ports[p]
def State.setPort (s : State) (p : PortId) (v : Port) : State := s.withPorts (s.ports.set p v)

def State.output (s : State) (o : OutId) : OutputUnit := s.fu.outputs[o]
def State.setOutput (s : State) (o : OutId) (u : OutputUnit) : State := s.withFu ⟨s.fu.outputs.set o u⟩

def State.group (s : State) (g : Fin 3) : TrimGroup := s.tr.groups[g]
def State.setGroup (s : State) (g : Fin 3) (u : TrimGroup) : State := s.withTr ⟨s.tr.groups.set g u⟩

def State.point (s : State) (i : Fin 4) : PointUnit := s.iu.points[i]
def State.setPoint (s : State) (i : Fin 4) (u : PointUnit) : State := s.withIu ⟨s.iu.points.set i u⟩

def State.probe (s : State) (i : Fin 6) : ProbeUnit := s.tl.probes[i]
def State.setProbe (s : State) (i : Fin 6) (u : ProbeUnit) : State :=
  s.withTl { s.tl with probes := s.tl.probes.set i u }

/-- The recipe of a slot, none when it is EMPTY. -/
def State.recipe (s : State) (j : SlotId) : Option Recipe := s.rs.slots[j]

/-- The recipe that a record's slot names, none for slot NONE. -/
def State.recipeOf (s : State) (r : Record) : Option Recipe := r.slot.bind s.recipe

/-- The occupancy of the Box Queue (08 section 8.1). -/
def State.occupancy (s : State) : Nat := s.bq.entries.length

/-! ### The ring -/

def State.setRing (s : State) (l : List Record) : State := s.withTl { s.tl with ring := l }

/-- The record at a position, if one stands there. -/
def State.recordAt (s : State) (pos : Nat) : Option Record := s.tl.ring[pos]?

/-- The record of a seq, if it stands in the ring. -/
def State.recordOf (s : State) (seq : Word32) : Option Record := s.tl.ring.find? (fun r => r.seq == seq)

/-- Changes the record at a position; an empty position stays empty. -/
def State.modifyAt (s : State) (pos : Nat) (f : Record → Record) : State := s.setRing (s.tl.ring.modify pos f)

/-- Changes the record of a seq; a write to a record that has left the ring is lost (R46). -/
def State.modifyRecord (s : State) (seq : Word32) (f : Record → Record) : State :=
  s.setRing (s.tl.ring.map (fun r => if r.seq = seq then f r else r))

/-- How a seq resolves against the ring (R45). -/
inductive Resolution where
  | newer
  | gone
  | found (pos : Nat) (record : Record)
  deriving DecidableEq, Repr

/-- R45: NEWER when no record has been born or the signed difference to the newest seq is above 0; otherwise FOUND or
GONE. -/
def State.resolve (s : State) (seq : Word32) : Resolution :=
  if s.tl.born = false ∨ 0 < (seq - (s.tl.nextSeq - 1)).toInt then .newer
  else
    match s.tl.ring.findIdx? (fun r => r.seq == seq) with
    | some pos =>
      match s.recordAt pos with
      | some r => .found pos r
      | none => .gone
    | none => .gone

/-! ### Notices (R178, R186) -/

/-- The capacity of a notice queue (R186). -/
def queueLimit : Nat := 32

/-- A notice joins the newest end of the queue, or is discarded with the overflow flag set (R186). -/
def Port.push (q : Port) (n : NoticeRecord) : Port :=
  if q.queue.length < queueLimit then { q with queue := q.queue ++ [n] } else { q with overflow := true }

/-- Queues a notice, with the pitch count standing, on every port that `dest` names (R178). -/
def State.notify (s : State) (dest : PortId → Role → Bool) (n : Notice) : State :=
  s.withPorts (Vector.ofFn fun p : PortId =>
    let q := s.ports[p]
    if dest p q.role then q.push ⟨s.pu.pitch, n⟩ else q)

/-- The ports of a role. -/
def toRole (r : Role) : PortId → Role → Bool := fun _ q => q == r

/-- The ports of either role. -/
def toRoles (r t : Role) : PortId → Role → Bool := fun _ q => q == r || q == t

/-- One port: the bound port of a point (R178). -/
def toPort (p : PortId) : PortId → Role → Bool := fun q _ => q == p

/-- The bound port of a point and every LINE port (11 section 11.7). -/
def toPortAndLine (p : PortId) : PortId → Role → Bool := fun q r => q == p || r == .line

/-! ### Pins that are worked out -/

/-- RDY: active in ANSWER (R181). -/
def Port.rdy (q : Port) : Bool :=
  match q.transfer with
  | .answer _ => true
  | _ => false

/-- ATN: active while the queue holds a notice (R186). -/
def Port.atn (q : Port) : Bool := !q.queue.isEmpty

/-- Whether the output shows its active level (R67). -/
def OutputUnit.active (u : OutputUnit) : Bool := !u.pulses.isEmpty || u.test.isSome

/-- The level of the output line, true for high (R67). -/
def OutputUnit.level (u : OutputUnit) : Bool := if u.active then u.config.activeHigh else !u.config.activeHigh

/-! ### Free values -/

/-- The next free choice of an order, and the counter advanced (log entry 9). -/
def State.chooseOrder (s : State) : Bool × State := (Config.freeOrder s.fresh, s.withFresh (s.fresh + 1))

/-! ### Answers -/

/-- OK with a payload. -/
def Answer.okWith (payload : List Byte) : Answer := ⟨.ok, payload, none⟩

/-- OK with no payload. -/
def Answer.done : Answer := ⟨.ok, [], none⟩

/-- A refusal: a status with no payload (11 section 11.3 Remark). -/
def Answer.refuse (st : Status) : Answer := ⟨st, [], none⟩

end Sys2Proof.Machine
end

