-- ==== Sys2Proof/Machine/Flags.lean ====
section
/-! DEFINITION. The flags that several blocks set and the Fault and Hold Logic gathers (10): the latched tracking faults,
the hold causes, the HOLD output, and the Box Queue's backlog cause (08 section 8.6). -/

namespace Sys2Proof.Machine

/-! ### Latched faults -/

def FH.latch (h : FH) : TrackFault → FaultLatch
  | .reverseOverrun => h.reverseOverrun
  | .indexSlip => h.indexSlip
  | .quadratureError => h.quadratureError

def FH.setLatch (h : FH) (f : TrackFault) (l : FaultLatch) : FH :=
  match f with
  | .reverseOverrun => { h with reverseOverrun := l }
  | .indexSlip => { h with indexSlip := l }
  | .quadratureError => { h with quadratureError := l }

/-- The set of latched faults. -/
def FH.faults (h : FH) : FaultSet := ⟨h.reverseOverrun.latched, h.indexSlip.latched, h.quadratureError.latched⟩

/-- Whether the hold cause TRACKING stands: the set of latched faults is not empty (R169, R174). -/
def FH.tracking (h : FH) : Bool :=
  h.reverseOverrun.latched || h.indexSlip.latched || h.quadratureError.latched

/-- Whether any hold cause stands (R174). -/
def FH.anyCause (h : FH) : Bool :=
  h.tracking || h.offline[0] || h.offline[1] || h.offline[2] || h.offline[3] || h.backlog

/-! ### HOLD (R174 to R176) -/

/-- HOLD follows the causes; each change of its level sends HOLD CHANGED to LINE with the causes standing after it. -/
def State.refreshHold (s : State) : State :=
  let level := s.fh.anyCause
  if level = s.fh.hold then s
  else
    (s.withFh { s.fh with hold := level }).notify (toRole .line)
      (.holdChanged level s.fh.faults s.fh.offline s.fh.backlog)

/-- INSPECTION LOST of a point is set or withdrawn (R174). -/
def State.setOffline (s : State) (i : Fin 4) (v : Bool) : State :=
  (s.withFh { s.fh with offline := s.fh.offline.set i v }).refreshHold

/-! ### Tracking faults (R169 to R171) -/

/-- The latch after a raise: 1 for a new fault, otherwise one more, saturating at 255 (R169). -/
def FaultLatch.raised (l : FaultLatch) : FaultLatch := ⟨true, if l.latched then min 255 (l.count + 1) else 1⟩

/-- How many records do not carry DISTURBED yet (R171). -/
def undisturbed (ring : List Record) : Nat := (ring.filter (fun r => !hasCode r.defects Code.disturbed)).length

/-- R170: DISTURBED joins the defects of every record in the ring. -/
def State.disturb (s : State) : State := s.setRing (s.tl.ring.map (fun r => r.addDefect Code.disturbed))

/-- A raise of a tracking fault; `error` is the index error of INDEX SLIP, 0 for the others (R169 to R171). -/
def State.raiseFault (s : State) (f : TrackFault) (error : Int) : State :=
  let l := s.fh.latch f
  let marked := undisturbed s.tl.ring
  let s1 := s.disturb.withFh (s.fh.setLatch f l.raised)
  if l.latched then s1
  else
    (s1.notify (toRoles .line .service)
      (.trackingFault f s.pu.e s.pu.backlash s.pu.angle marked error)).refreshHold

/-- FAULT CLEAR's effect: the set becomes empty and every raise count 0 (R172). -/
def State.clearFaults (s : State) : State :=
  if s.fh.tracking then
    (s.withFh { s.fh with
      reverseOverrun := ⟨false, 0⟩, indexSlip := ⟨false, 0⟩, quadratureError := ⟨false, 0⟩ }).refreshHold
  else s

/-! ### Backlog (R151, R152) -/

/-- The number of the oldest entry of the Box Queue. -/
def BQ.oldest (q : BQ) : Word32 :=
  match q.entries with
  | e :: _ => e.number
  | [] => 0

/-- The backlog cause is set or withdrawn, in the Box Queue and in the Fault and Hold Logic. -/
def State.setBacklog (s : State) (v : Bool) : State :=
  ((s.withBq { s.bq with standing := v }).withFh { s.fh with backlog := v })

/-- The comparison of R151: the occupancy against the threshold. -/
def State.testBacklog (s : State) : State :=
  let full := decide (s.config.backlog ≤ s.occupancy)
  if full && !s.bq.standing then
    ((s.setBacklog true).notify (toRole .pack) (.backlog s.occupancy s.config.backlog s.bq.oldest)).refreshHold
  else if !full && s.bq.standing then (s.setBacklog false).refreshHold
  else s

end Sys2Proof.Machine
end

