-- ==== Sys2Proof/Machine/Operands.lean ====
section
/-! DEFINITION. Every payload field of the configuration commands, from its byte or bytes to its value and back: the
encodings of R182 and the range checks that the owners make first (a payload that fails them is answered RANGE). -/

namespace Sys2Proof.Machine

/-! ### Single fields (R182) -/

/-- ON, HIGH, ACTIVE, SET and yes are 1, their opposites 0; any other byte is out of range (log entry 17). -/
def boolOf : Nat → Option Bool
  | 0 => some false
  | 1 => some true
  | _ => none

def boolCode (b : Bool) : Nat := if b then 1 else 0

def countModeOf : Nat → Option CountMode
  | 0 => some .x1
  | 1 => some .x2
  | 2 => some .x4
  | 3 => some .pulseDir
  | _ => none

def CountMode.code : CountMode → Nat
  | .x1 => 0
  | .x2 => 1
  | .x4 => 2
  | .pulseDir => 3

def sourceOf : Nat → Option Source
  | 0 => some .encoder
  | 1 => some .internal
  | _ => none

def Source.code : Source → Nat
  | .encoder => 0
  | .internal => 1

def gatingOf : Nat → Option GatingClass
  | 0 => some .always
  | 1 => some .present
  | 2 => some .reject
  | 3 => some .sample
  | 4 => some .closing
  | _ => none

def GatingClass.code : GatingClass → Nat
  | .always => 0
  | .present => 1
  | .reject => 2
  | .sample => 3
  | .closing => 4

def trimModeOf : Nat → Option TrimMode
  | 0 => some .auto
  | 1 => some .manual
  | _ => none

def TrimMode.code : TrimMode → Nat
  | .auto => 0
  | .manual => 1

def policyOf : Nat → Option TimeoutPolicy
  | 0 => some .reject
  | 1 => some .pass
  | _ => none

def TimeoutPolicy.code : TimeoutPolicy → Nat
  | .reject => 0
  | .pass => 1

/-- A number below `n`, as an index. -/
def finOf (n v : Nat) : Option (Fin n) := if h : v < n then some ⟨v, h⟩ else none

/-- A number below `n`, or 0xFF for NONE or absent: none out of range, some none for 0xFF. -/
def optFinOf (n v : Nat) : Option (Option (Fin n)) :=
  if v = 255 then some none else if h : v < n then some (some ⟨v, h⟩) else none

/-- The byte of an index, 0xFF for NONE or absent. -/
def optFinCode {n : Nat} : Option (Fin n) → Nat
  | some i => i.val
  | none => 255

/-- The kind of a probe; its code byte is read for DEFECT only (R182). -/
def probeKindOf (kind code : Nat) : Option ProbeKind :=
  match kind with
  | 0 => some .blank
  | 1 => (finOf 16 code).map .defect
  | _ => none

def ProbeKind.code : ProbeKind → Nat
  | .blank => 0
  | .defect _ => 1

/-- The code byte of a probe's kind; a BLANK probe has none, which reads 0 (log entry 16). -/
def ProbeKind.codeByte : ProbeKind → Nat
  | .blank => 0
  | .defect c => c.val

/-! ### LINE CONFIG (R22, step 1) -/

/-- The ranges of section 1.9.3 and 2 ≤ gate position ≤ count position ≤ P−1. -/
def LineFields.inRange (f : LineFields) : Bool :=
  decide (4 ≤ f.lineLength ∧ f.lineLength ≤ 64 ∧ 2 ≤ f.gate ∧ f.gate ≤ f.count ∧ f.count + 1 ≤ f.lineLength
    ∧ 256 ≤ f.cpc ∧ f.cpc ≤ 16384 ∧ f.filter ≤ 7 ∧ f.indexTolerance ≤ 255 ∧ 2 ≤ f.stopTime ∧ f.stopTime ≤ 200
    ∧ 1 ≤ f.runThreshold ∧ f.runThreshold ≤ 2400 ∧ f.runHysteresis ≤ 255 ∧ 1 ≤ f.backlog ∧ f.backlog ≤ 16)

def LineConfig.ofFields (f : LineFields) : Option LineConfig :=
  match countModeOf f.countMode, boolOf f.indexEnable, sourceOf f.source with
  | some mode, some index, some src =>
    if LineFields.inRange f then
      some ⟨f.lineLength, f.gate, f.count, f.cpc, mode, f.filter, index, f.indexTolerance, f.stopTime, f.runThreshold,
        f.runHysteresis, src, f.backlog⟩
    else none
  | _, _, _ => none

def LineConfig.fields (c : LineConfig) : LineFields :=
  ⟨c.lineLength, c.gate, c.count, c.cpc, c.countMode.code, c.filter, boolCode c.indexEnable, c.indexTolerance,
    c.stopTime, c.runThreshold, c.runHysteresis, c.source.code, c.backlog⟩

/-! ### PROBE CONFIG (R51) -/

/-- R51 for line length P: the probe's number and its new configuration, or none for RANGE. -/
def ProbeConfig.ofFields (lineLength : Nat) (f : ProbeFields) : Option (Fin 6 × ProbeConfig) :=
  match finOf 6 f.probe, boolOf f.enable, boolOf f.badLevel, probeKindOf f.kind f.code with
  | some i, some en, some bad, some kind =>
    if f.position + 1 ≤ lineLength ∧ f.onAngle ≤ 4094 ∧ f.onAngle < f.offAngle ∧ f.offAngle ≤ 4095
        ∧ f.stableTime ≤ 255 ∧ (kind = .blank → f.position = 0) then
      some (i, ⟨en, f.position, f.onAngle, f.offAngle, bad, f.stableTime, kind⟩)
    else none
  | _, _, _, _ => none

/-- As PROBE CONFIG carries it; the probe byte is 0 and is not used (R185). -/
def ProbeConfig.fields (c : ProbeConfig) : ProbeFields :=
  ⟨0, boolCode c.enable, c.position, c.onAngle, c.offAngle, boolCode c.badHigh, c.stableTime, c.kind.code,
    c.kind.codeByte⟩

/-! ### OUTPUT CONFIG (R86, steps 1 and 2) -/

/-- The station limits of the gating classes (R69), for a line length, a gate and a count position. -/
def stationAllowed (cfg : LineConfig) (cls : GatingClass) (station : Nat) : Bool :=
  decide (station + 1 ≤ cfg.lineLength) &&
  match cls with
  | .always => decide (1 ≤ station)
  | .present => decide (1 ≤ station)
  | .reject => decide (cfg.gate ≤ station)
  | .sample => decide (cfg.gate ≤ station)
  | .closing => decide (cfg.count + 1 ≤ station)

/-- R86, step 1: the output's number and its new configuration, or none for RANGE. -/
def OutputConfig.ofFields (f : OutputFields) : Option (OutId × OutputConfig) :=
  match finOf 16 f.output, boolOf f.enable, boolOf f.polarity, gatingOf f.gating, optFinOf 3 f.trimGroup,
    boolOf f.runOnly, optFinOf 16 f.omission with
  | some o, some en, some pol, some cls, some trim, some ro, some om =>
    if 1 ≤ f.station ∧ f.station ≤ 63 ∧ f.lon ≤ 20000 ∧ f.loff ≤ 20000 then
      some (o, ⟨en, pol, f.station, cls, f.lon, f.loff, trim, ro, om⟩)
    else none
  | _, _, _, _, _, _, _ => none

/-- As OUTPUT CONFIG carries it; the output byte is 0 and is not used (R185). -/
def OutputConfig.fields (c : OutputConfig) : OutputFields :=
  ⟨0, boolCode c.enable, boolCode c.activeHigh, c.station, c.gating.code, c.lon, c.loff, optFinCode c.trim,
    boolCode c.runOnly, optFinCode c.omission⟩

/-! ### TRIM CONFIG (R102) -/

def TrimConfig.ofFields (f : TrimFields) : Option (Fin 3 × TrimConfig) :=
  match finOf 3 f.group, trimModeOf f.mode with
  | some g, some mode =>
    if 32 ≤ f.tmin ∧ f.tmin ≤ f.tmax ∧ f.tmax ≤ 255 ∧ 1 ≤ f.upStep ∧ f.upStep ≤ 15 ∧ 1 ≤ f.downStep
        ∧ f.downStep ≤ 15 ∧ f.hysteresis ≤ 7 ∧ 1 ≤ f.tick ∧ f.tick ≤ 255 ∧ f.noise < f.low ∧ f.low ≤ f.high
        ∧ f.high ≤ 127 then
      some (g, ⟨mode, f.tmin, f.tmax, f.upStep, f.downStep, f.hysteresis, f.tick, f.noise, f.low, f.high⟩)
    else none
  | _, _ => none

/-- As TRIM CONFIG carries it; the group byte is 0 and is not used (R185). -/
def TrimConfig.fields (c : TrimConfig) : TrimFields :=
  ⟨0, c.mode.code, c.tmin, c.tmax, c.upStep, c.downStep, c.hysteresis, c.tick, c.noise, c.low, c.high⟩

/-! ### POINT CONFIG (R108, step 1) -/

def PointConfig.ofFields (f : PointFields) : Option (Fin 4 × PointConfig) :=
  match finOf 4 f.point, boolOf f.enable, finOf 4 f.boundPort, policyOf f.policy, optFinOf 3 f.trimGroup with
  | some i, some en, some port, some policy, some trim =>
    if 1 ≤ f.inspection ∧ f.inspection ≤ 62 ∧ f.inspection + 1 ≤ f.deadline ∧ f.deadline ≤ 63 ∧ 1 ≤ f.limit
        ∧ f.limit ≤ 32 then
      some (i, ⟨en, f.inspection, f.deadline, port, policy, trim, f.limit⟩)
    else none
  | _, _, _, _, _ => none

/-- As POINT CONFIG carries it; the point byte is 0 and is not used (R185). -/
def PointConfig.fields (c : PointConfig) : PointFields :=
  ⟨0, boolCode c.enable, c.inspection, c.deadline, c.port.val, c.policy.code, optFinCode c.trim, c.limit⟩

/-! ### PUT RECIPE (R38, step 1) -/

/-- Whether a map entry is NONE or a profile number. -/
def mapEntryOk (v : Nat) : Bool := v = 255 || decide (v < 64)

/-- A map entry: none for NONE. Out-of-range entries are refused before (`Recipe.ofFields`). -/
def mapEntry (v : Nat) : Option ProfileId := if h : v < 64 then some ⟨v, h⟩ else none

/-- A set of inspection points from its byte (R182). -/
def pointSet (v : Nat) : Vector Bool 4 := #v[v.testBit 0, v.testBit 1, v.testBit 2, v.testBit 3]

/-- A set of inspection points as its byte. -/
def pointMask (v : Vector Bool 4) : Nat := boolCode v[0] + 2 * boolCode v[1] + 4 * boolCode v[2] + 8 * boolCode v[3]

/-- R38, step 1, for the fields of a recipe. -/
def Recipe.ofFields (f : RecipeFields) : Option Recipe :=
  if allOutputs.all (fun o => mapEntryOk f.outputMap[o]) ∧ f.points < 16 ∧ f.rejectMask < 65536 ∧ f.skipMask < 65536
      ∧ 10 ≤ f.batchSize ∧ f.batchSize ≤ 5000 ∧ f.minSpeed ≤ 2400 ∧ f.autoSample ≤ 9999 then
    some ⟨BitVec.ofNat 32 f.jobCode, Vector.ofFn (fun o : OutId => mapEntry f.outputMap[o]),
      BitVec.ofNat 16 f.rejectMask, BitVec.ofNat 16 f.skipMask, pointSet f.points, f.batchSize, f.minSpeed, f.autoSample⟩
  else none

def Recipe.fields (r : Recipe) : RecipeFields :=
  ⟨r.jobCode.toNat, Vector.ofFn (fun o : OutId => optFinCode r.outputMap[o]), r.rejectMask.toNat, r.skipMask.toNat,
    pointMask r.points, r.batchSize, r.minSpeed, r.autoSample⟩

/-! ### NEXT JOB (R156, row 1) and VERDICT (R113) -/

/-- A slot J0 to J15, or 0xFF for NONE. -/
def slotOf (v : Nat) : Option (Option SlotId) := optFinOf 16 v

/-- The mode of NEXT JOB with its n: AFTER BIRTHS needs an n from 1 to 65,535, IMMEDIATE may not carry one. -/
def jobModeOf (mode : Nat) (n : Option Nat) : Option JobMode :=
  match mode, n with
  | 0, none => some .immediate
  | 1, some n => if 1 ≤ n ∧ n ≤ 65535 then some (.afterBirths n) else none
  | _, _ => none

/-- The list of code numbers of a verdict, none if one is above 15. -/
def codesOf : List Nat → Option (List Code)
  | [] => some []
  | v :: rest =>
    match finOf 16 v, codesOf rest with
    | some c, some cs => some (c :: cs)
    | _, _ => none

/-- The fields of a valid verdict. -/
structure VerdictFields where
  point : Fin 4
  seq : Word32
  fail : Bool
  codes : List Code
  m : Option Nat
  deriving DecidableEq, Repr

/-- R113: none for RANGE. -/
def verdictOf (point seq result m : Nat) (codes : List Nat) : Option VerdictFields :=
  match finOf 4 point, boolOf result, codesOf codes with
  | some p, some fail, some cs =>
    if codes.length ≤ 16 ∧ (m ≤ 127 ∨ m = 255) ∧ (fail = false → codes = []) then
      some ⟨p, BitVec.ofNat 32 seq, fail, cs, if m = 255 then none else some m⟩
    else none
  | _, _, _ => none

end Sys2Proof.Machine
end

