-- ==== Sys2Proof/Machine/Layouts.lean ====
section
/-! DEFINITION. The layouts of the answers (R185), of the tracking record and the box entry (11 section 11.6) and of the
notices (11 section 11.7). An item that is none or absent reads 0. -/

namespace Sys2Proof.Machine

/-! ### Codes of enumerations, by their place in the lists of the manual (R182) -/

def Direction.code : Direction → Nat
  | .forward => 0
  | .reverse => 1

def LineState.code : LineState → Nat
  | .stopped => 0
  | .crawl => 1
  | .run => 2
  | .reverse => 3

def Role.code : Role → Nat
  | .line => 0
  | .inspect => 1
  | .pack => 2
  | .service => 3

def Fate.code : Fate → Nat
  | .undecided => 0
  | .good => 1
  | .reject => 2
  | .sample => 3
  | .void => 4

def PointStatus.code : PointStatus → Nat
  | .notRequired => 0
  | .open_ => 1
  | .passed => 2
  | .failed => 3
  | .timedOut => 4

def CloseReason.code : CloseReason → Nat
  | .full => 0
  | .runEnd => 1
  | .forced => 2
  | .clear => 3

def TrackFault.code : TrackFault → Nat
  | .reverseOverrun => 0
  | .indexSlip => 1
  | .quadratureError => 2

def ResetCause.code : ResetCause → Nat
  | .powerOn => 0
  | .resetPin => 1

/-- The values NONE, UP, DOWN of a last step or request direction. -/
def stepCode : Option StepDir → Nat
  | none => 0
  | some .up => 1
  | some .down => 2

def JobMode.code : JobMode → Nat
  | .immediate => 0
  | .afterBirths _ => 1

/-- The n of a mode, 0 where it is absent. -/
def JobMode.n : JobMode → Nat
  | .immediate => 0
  | .afterBirths n => n

/-! ### Pieces -/

def word (v : Word32) : List Byte := byte4 v.toNat
def mask2 (v : CodeSet) : List Byte := byte2 v.toNat

/-- A 32-bit item that reads 0 when it is absent. -/
def optWord (v : Option Word32) : List Byte := word (v.getD 0)

/-- A slot, 0xFF for NONE. -/
def slotByte (v : Option SlotId) : List Byte := byte1 (optFinCode v)

/-- A slot that a presence bit stands for: 0 where it is absent. -/
def slotOrZero (v : Option SlotId) : List Byte :=
  match v with
  | some j => byte1 j.val
  | none => byte1 0

/-- Presence bits, the first in bit 0. -/
def bits : List Bool → Nat
  | [] => 0
  | b :: rest => boolCode b + 2 * bits rest

def FaultSet.byte (f : FaultSet) : List Byte := byte1 (bits [f.reverseOverrun, f.indexSlip, f.quadratureError])

/-- A set of inspection points as a byte. -/
def pointsByte (v : Vector Bool 4) : List Byte := byte1 (bits [v[0], v[1], v[2], v[3]])

/-! ### Records (11 section 11.6) -/

/-- The tracking record, 29 bytes. -/
def Record.layout (r : Record) (pos : Nat) : List Byte :=
  byte1 pos ++ word r.seq ++ byte1 (bits [r.run.isSome, r.deposit.isSome, r.batch.isSome]) ++ optWord r.run
    ++ slotByte r.slot ++ word r.birthPitch ++ flagByte r.void ++ mask2 r.defects
    ++ byte1 r.status[0].code ++ byte1 r.status[1].code ++ byte1 r.status[2].code ++ byte1 r.status[3].code
    ++ byte1 (r.deposit.getD 0) ++ byte1 r.fate.code ++ byte1 (bits [r.closing, r.lastOfRun]) ++ optWord r.batch

/-- The box entry, 39 bytes. -/
def BoxEntry.layout (e : BoxEntry) : List Byte :=
  word e.number ++ word e.owner.run ++ byte1 e.owner.slot.val ++ word e.owner.jobCode ++ word e.good ++ word e.reject
    ++ word e.sample ++ word e.suspect ++ word e.owner.firstSeq ++ word e.owner.lastSeq ++ byte1 e.reason.code
    ++ flagByte e.overrun

/-! ### READ STATUS, READ CONFIG, READ BATCH (R183 to R185) -/

/-- READ STATUS, 50 bytes. -/
def State.statusLayout (s : State) : List Byte :=
  let run := s.cc.current
  let job := s.cc.armed
  let tr := s.cc.transition
  byte1 (bits [run.isSome, job.isSome, tr.isSome]) ++ byte1 s.pu.lineState.code ++ byte2 s.pu.speed
    ++ byte1 s.pu.speedDir.code ++ byte2 s.pu.angle ++ flagByte s.pu.backlash ++ word s.pu.pitch ++ word s.tl.nextSeq
    ++ optWord (run.map CurrentRun.number) ++ slotOrZero (run.map CurrentRun.slot)
    ++ (match job with
        | some j => slotByte j.slot ++ byte1 j.mode.code ++ byte2 j.mode.n ++ byte2 s.cc.births
        | none => byte1 0 ++ byte1 0 ++ byte2 0 ++ byte2 0)
    ++ optWord (tr.map Transition.run) ++ optWord (tr.map Transition.lastSeq)
    ++ byte1 s.occupancy ++ flagByte s.fh.hold ++ s.fh.faults.byte ++ byte1 s.fh.reverseOverrun.count
    ++ byte1 s.fh.indexSlip.count ++ byte1 s.fh.quadratureError.count ++ pointsByte s.fh.offline ++ flagByte s.fh.backlog
    ++ byte1 (s.group 0).t ++ byte1 (s.group 1).t ++ byte1 (s.group 2).t
    ++ flagByte (s.point 0).offline ++ flagByte (s.point 1).offline ++ flagByte (s.point 2).offline
    ++ flagByte (s.point 3).offline

/-- READ CONFIG, part LINE, 80 bytes. -/
def State.lineLayout (s : State) : List Byte :=
  s.config.fields.payload ++ byte2 s.pu.target ++ byte1 s.pu.ramp ++ byte2 s.pu.sd
    ++ allProbes.flatMap (fun i => (s.probe i).config.fields.tail)

/-- One output of READ CONFIG, 17 bytes. -/
def OutputUnit.layout (u : OutputUnit) : List Byte :=
  u.config.fields.tail ++ byte2 u.aOn ++ byte2 u.aOff ++ flagByte u.clamped ++ flagByte u.test.isSome

/-- READ CONFIG, parts OUTPUTS LOW and OUTPUTS HIGH, 136 bytes. -/
def State.outputsLayout (s : State) (outs : List OutId) : List Byte := outs.flatMap (fun o => (s.output o).layout)

def lowOutputs : List OutId := [0, 1, 2, 3, 4, 5, 6, 7]
def highOutputs : List OutId := [8, 9, 10, 11, 12, 13, 14, 15]

/-- One group of READ CONFIG, 18 bytes. -/
def TrimGroup.layout (g : TrimGroup) : List Byte :=
  g.config.fields.tail ++ byte1 g.t ++ byte1 (stepCode g.lastStep) ++ byte1 (stepCode g.request) ++ byte1 g.count
    ++ word g.lastPitch

/-- READ CONFIG, part TRIM, 54 bytes. -/
def State.trimLayout (s : State) : List Byte := (s.group 0).layout ++ (s.group 1).layout ++ (s.group 2).layout

/-- One point of READ CONFIG, 9 bytes. -/
def PointUnit.layout (u : PointUnit) : List Byte := u.config.fields.tail ++ flagByte u.offline ++ byte1 u.timeouts

/-- READ CONFIG, part POINTS, 36 bytes. -/
def State.pointsLayout (s : State) : List Byte := allPoints.flatMap (fun i => (s.point i).layout)

/-- READ BATCH, 40 bytes. -/
def CU.layout (c : CU) : List Byte :=
  let o := c.batch.owner
  flagByte o.isSome ++ word c.batch.number ++ optWord (o.map BatchOwner.run) ++ slotOrZero (o.map BatchOwner.slot)
    ++ optWord (o.map BatchOwner.jobCode) ++ word c.batch.good ++ word c.batch.reject ++ word c.batch.sample
    ++ word c.batch.suspect ++ optWord (o.map BatchOwner.firstSeq) ++ optWord (o.map BatchOwner.lastSeq)
    ++ flagByte c.batch.overrun ++ flagByte c.forcePending

/-! ### Notices (11 section 11.7) -/

/-- The kind of a notice. -/
def Notice.kind : Notice → Nat
  | .restart .. => 0x01 | .lineState .. => 0x02 | .overspeed .. => 0x03 | .trackingFault .. => 0x04
  | .holdChanged .. => 0x05 | .runStarted .. => 0x06 | .switchDeferred .. => 0x07 | .runEnded .. => 0x08
  | .arrival .. => 0x09 | .verdictMissed .. => 0x0A | .pointOffline .. => 0x0B | .trimLimit .. => 0x0C
  | .timingLimit .. => 0x0D | .batchClosed .. => 0x0E | .backlog .. => 0x0F

/-- The fields of a notice. In the presence byte of RUN STARTED the new run is bit 0 and the ending run bit 1, by the order of the
manual's list; section 11.7 numbers no bits there, and this is the model's choice (log entry 16). -/
def Notice.fields : Notice → List Byte
  | .restart cause role => byte1 cause.code ++ byte1 role.code
  | .lineState new old speed => byte1 new.code ++ byte1 old.code ++ byte2 speed
  | .overspeed sum4 dir => signed4 sum4 ++ byte1 dir.code
  | .trackingFault fault e b angle marked error =>
    byte1 fault.code ++ byte2 e ++ flagByte b ++ byte2 angle ++ byte1 marked ++ signed2 error
  | .holdChanged level faults offline standing =>
    flagByte level ++ faults.byte ++ pointsByte offline ++ flagByte standing
  | .runStarted run firstSeq ending =>
    byte1 (bits [run.isSome, ending.isSome]) ++ optWord (run.map (fun r => r.1.number))
      ++ slotByte (run.map (fun r => r.1.slot)) ++ optWord (run.map Prod.snd) ++ word firstSeq
      ++ optWord (ending.map Transition.run) ++ optWord (ending.map Transition.lastSeq)
  | .switchDeferred slot mode births occupancy =>
    slotByte slot ++ byte1 mode.code ++ byte2 births ++ byte1 occupancy
  | .runEnded r =>
    word r.number ++ byte1 r.slot.val ++ word r.jobCode ++ word r.firstSeq ++ optWord r.lastSeq ++ word r.births
      ++ word r.voids ++ word r.good ++ word r.reject ++ word r.sample
  | .arrival point seq run slot => byte1 point.val ++ word seq ++ optWord run ++ slotByte slot
  | .verdictMissed point seq run slot policy count =>
    byte1 point.val ++ word seq ++ optWord run ++ slotByte slot ++ byte1 policy.code ++ byte1 count
  | .pointOffline point seq limit => byte1 point.val ++ word seq ++ byte1 limit
  | .trimLimit group high t dir m =>
    byte1 group.val ++ flagByte high ++ byte1 t ++ byte1 (stepCode (some dir)) ++ byte1 m
  | .timingLimit output clamped speed rawOn rawOff =>
    byte1 output.val ++ flagByte clamped ++ byte2 speed ++ byte2 rawOn ++ byte2 rawOff
  | .batchClosed number reason good => word number ++ byte1 reason.code ++ word good
  | .backlog occupancy threshold oldest => byte1 occupancy ++ byte1 threshold ++ word oldest

/-- A notice record: kind, length of its fields, pitch count, fields. -/
def NoticeRecord.layout (n : NoticeRecord) : List Byte :=
  byte1 n.notice.kind ++ byte1 n.notice.fields.length ++ word n.pitch ++ n.notice.fields

end Sys2Proof.Machine
end

