-- ==== Sys2Proof/Machine/Ports.lean ====
section
/-! DEFINITION. The Port Interface (11): roles, the check of a frame, the transfers of a port in its three states, the making
of a response, and the way a catalogue command reaches its owner. -/

namespace Sys2Proof.Machine

/-! ### Roles (R182 and the catalogue of 11 section 11.4) -/

/-- The Roles column of the catalogue. -/
def openTo (k : Command) (r : Role) : Bool :=
  match k with
  | .readStatus | .readConfig | .readRecord | .readSegments | .readProfile | .readRecipe | .readBatch | .boxPeek
  | .noticeTake => true
  | .lineConfig | .source | .drive | .probeConfig | .outputConfig | .trimConfig | .pointConfig | .putSegments
  | .putProfile | .putRecipe | .nextJob | .cancelJob | .splice | .trackClear | .faultClear | .setTrim => r == .line
  | .forceReject | .pullSample | .pointResume => r == .line || r == .inspect
  | .verdict => r == .inspect
  | .testPulse => r == .line || r == .service
  | .boxTake => r == .pack
  | .closeBatch => r == .line || r == .pack

/-- The code of a status (11 section 11.3). -/
def Status.code : Status → Nat
  | .ok => 0x00 | .frame => 0x01 | .unknown => 0x02 | .role => 0x03 | .range => 0x04 | .state => 0x05
  | .inUse => 0x06 | .emptySlot => 0x07 | .armed => 0x08 | .pending => 0x09 | .notArmed => 0x0A | .early => 0x0B
  | .late => 0x0C | .duplicate => 0x0D | .notExpected => 0x0E | .noRecord => 0x0F | .full => 0x10 | .empty => 0x11

/-! ### Transfers (R179 to R181, R188) -/

/-- The bytes the part sends while it has no response to send. -/
def zeros (n : Nat) : List Byte := List.replicate n 0

/-- R179: what becomes of the bytes of a transfer in IDLE: a command in flight, or the answer of the check that failed. -/
def receive (p : PortId) (role : Role) (bytes : List Byte) : Transfer :=
  match checkFrame bytes with
  | none => .answered (.refuse .frame)
  | some (code, payload) =>
    match Command.ofCode code with
    | none => .answered (.refuse .unknown)
    | some k =>
      if openTo k role then
        match decodePayload p k payload with
        | some c => .inFlight c
        | none => .answered (.refuse .range)
      else .answered (.refuse .role)

/-- R180: a transfer while WORKING sets the overlap flag at its first whole byte. -/
def Port.overlapped (q : Port) (bytes : List Byte) : Port :=
  { q with overlap := q.overlap || !bytes.isEmpty, sent := zeros bytes.length }

/-- R181: a transfer in ANSWER clocks the response out from its first byte; one that clocks all of it returns the port to
IDLE. -/
def Port.readOut (q : Port) (response bytes : List Byte) : Port :=
  { q with
    transfer := if response.length ≤ bytes.length then .idle else q.transfer
    sent := (response ++ zeros bytes.length).take bytes.length }

/-- A transfer in which the partner clocks the whole bytes `bytes` and releases select (R179 to R181). Where its select was
held since before the end of reset (R188) or the making of the response (R181), these are its remaining bytes: the part sends
0x00 for each, no flag is set, and the port stays as it is. -/
def Port.transferred (q : Port) (p : PortId) (bytes : List Byte) : Port :=
  if q.ignoring then { q with ignoring := false, sent := zeros bytes.length }
  else
    match q.transfer with
    | .idle =>
      if bytes.isEmpty then { q with sent := [] }
      else { q with transfer := receive p q.role bytes, sent := zeros bytes.length }
    | .inFlight _ => q.overlapped bytes
    | .answered _ => q.overlapped bytes
    | .answer response => q.readOut response bytes

def State.transfer (s : State) (p : PortId) (bytes : List Byte) : State := s.setPort p ((s.port p).transferred p bytes)

/-! ### Responses (R181) -/

/-- The response frame of a status, a flags byte and a payload (11 section 11.6). -/
def responseFrame (status flags : Nat) (payload : List Byte) : List Byte :=
  let body := byte1 status ++ byte1 flags ++ byte1 payload.length ++ payload
  body ++ [checkByte body]

/-- R181: the flags byte; NOTICE TAKE reports the overflow flag as it stood when the command was taken (R187). -/
def Port.flags (q : Port) (a : Answer) : Nat :=
  (if q.overlap then 1 else 0) + (if a.overflow.getD q.overflow then 2 else 0) + (if q.atn then 4 else 0)

/-- R181: the response is made of the owner's answer: the overlap flag is reported and cleared, and the port enters ANSWER. A
transfer whose select is held across that moment goes on as a WORKING transfer: its remaining bytes are ignored (log entry
21). In the other states there is no answer to make a response of (log entry 28). -/
def Port.respond (q : Port) (selHeld : Bool) : Port :=
  match q.transfer with
  | .answered a =>
    { q with
      transfer := .answer (responseFrame a.status.code (q.flags a) a.payload)
      overlap := false
      ignoring := q.ignoring || selHeld }
  | _ => q

/-! ### Commands (R179, R182) -/

/-- Whether the payload of a row has a length that the table of R182 gives; only PUT SEGMENTS can carry one that has not. -/
def lengthFits : Instr → Bool
  | .putSegments _ _ count segs => segs.length == count
  | _ => true

/-- The longest payload of a command frame (R179, check 1). -/
def payloadLimit : Nat := 60

/-- R179: the check that turns the frame of a row away, in the order of its list. The code is in the catalogue, and the check
byte is right. -/
def frameRefusal (role : Role) (c : Instr) : Option Status :=
  if payloadLimit < c.payload.length then some .frame
  else
    match c.command? with
    | some (_, k) => if openTo k role then (if lengthFits c then none else some .range) else some .role
    | none => some .unknown

/-- The owner's answer returns to the port. -/
def State.answerPort (s : State) (p : PortId) (a : Answer) : State := s.setPort p { s.port p with transfer := .answered a }

/-- The owner of a command: the state it leaves, and its answer. -/
abbrev Owner := State → State × Answer

/-- The owner takes the command of a port and answers. -/
def State.runOwner (s : State) (p : PortId) (own : Owner) : State :=
  let r := own s
  r.1.answerPort p r.2

/-- A row of the catalogue at a port (log entry 1). In IDLE its frame is clocked in and checked, and the owner takes the
command; where that very command is in flight already, its owner takes it now; in the other states of the port its frame
is a transfer like any other (R180, R181, R188). -/
def State.takeCommand (p : PortId) (c : Instr) (own : Owner) (s : State) : State :=
  let q := s.port p
  if q.ignoring then s.transfer p c.frame
  else
    match q.transfer with
    | .idle =>
      let s1 := s.setPort p { q with sent := zeros c.frame.length }
      match frameRefusal q.role c with
      | some st => s1.answerPort p (.refuse st)
      | none => s1.runOwner p own
    | .inFlight d => if d = c then s.runOwner p own else s.transfer p c.frame
    | .answered _ => s.transfer p c.frame
    | .answer _ => s.transfer p c.frame

end Sys2Proof.Machine
end

