-- ==== Sys2Proof/Machine/Store.lean ====
section
/-! DEFINITION. The Recipe Store (02): liveness, the ascending order of profiles, the writes and the reads. -/

namespace Sys2Proof.Machine

/-! ### Liveness (R30, R31) -/

/-- How many records of the ring have a slot (R42). -/
def State.recordsWith (s : State) (j : SlotId) : Nat := (s.tl.ring.filter (fun r => r.slot == some j)).length

/-- Whether a slot is that of the current run. -/
def State.isCurrent (s : State) (j : SlotId) : Bool := s.cc.current.map CurrentRun.slot == some j

/-- Whether a slot is that of the armed job. -/
def State.isArmed (s : State) (j : SlotId) : Bool := s.cc.armed.bind ArmedJob.slot == some j

/-- R30: the slot is live. -/
def State.slotLive (s : State) (j : SlotId) : Bool :=
  s.isCurrent j || s.isArmed j || decide (0 < s.recordsWith j)

/-- Whether a recipe's output map names a profile. -/
def Recipe.names (r : Recipe) (p : ProfileId) : Bool := allOutputs.any (fun o => r.outputMap[o] == some p)

/-- R31: the profile is live: the output map of a live slot names it. -/
def State.profileLive (s : State) (p : ProfileId) : Bool :=
  allSlots.any (fun j =>
    match s.recipe j with
    | some r => s.slotLive j && r.names p
    | none => false)

/-- All profiles, ascending. -/
def allProfiles : List ProfileId := List.finRange 64

/-- Whether a segment lies in the range of a profile. -/
def Profile.covers (p : Profile) (i : Nat) : Bool := decide (p.first ≤ i) && decide (i < p.first + p.count)

/-- R31: the segment is live: it lies in the range of a live profile. -/
def State.segmentLive (s : State) (i : Nat) : Bool :=
  allProfiles.any (fun p => (s.rs.profiles[p]).covers i && s.profileLive p)

/-! ### Ascending order (R26) -/

/-- Strictly ascending. -/
def ascending : List Nat → Bool
  | a :: b :: rest => decide (a < b) && ascending (b :: rest)
  | _ => true

/-- The on-angles of a range of the pool. -/
def thetas (pool : Vector Segment 256) (first count : Nat) : List Nat :=
  (List.range count).filterMap (fun i => (pool[first + i]?).map Segment.theta)

/-- R26: the profile's on-angles are strictly ascending in a pool. -/
def Profile.ordered (p : Profile) (pool : Vector Segment 256) : Bool := ascending (thetas pool p.first p.count)

/-! ### PUT SEGMENTS (R34) -/

/-- The indexes of a run of segments. -/
def runOf (first count : Nat) : List Nat := (List.range count).map (first + ·)

/-- R34, step 1. -/
def segmentsInRange (first count : Nat) (segs : List (Nat × Nat)) : Bool :=
  decide (1 ≤ count ∧ count ≤ 12 ∧ first + count ≤ 256 ∧ segs.length = count)
    && segs.all (fun g => decide (g.1 ≤ 4095 ∧ 1 ≤ g.2 ∧ g.2 ≤ 4095))

/-- The pool with a run of segments written. -/
def writeSegments (pool : Vector Segment 256) (first : Nat) (segs : List (Nat × Nat)) : Vector Segment 256 :=
  match segs with
  | [] => pool
  | g :: rest => writeSegments (pool.setIfInBounds first ⟨g.1, g.2⟩) (first + 1) rest

/-- R34, step 3: the lowest defined profile that touches the run and would not be ascending in the new pool. -/
def State.brokenProfile (s : State) (pool : Vector Segment 256) (first count : Nat) : Option ProfileId :=
  allProfiles.find? (fun p =>
    let q := s.rs.profiles[p]
    (runOf first count).any q.covers && !q.ordered pool)

/-- R34: PUT SEGMENTS. A RANGE of step 3 carries the failing profile, in one byte by the model's choice (log entry 16). -/
def State.putSegments (s : State) (first count : Nat) (segs : List (Nat × Nat)) : State × Answer :=
  if segmentsInRange first count segs then
    if (runOf first count).any s.segmentLive then (s, .refuse .inUse)
    else
      let pool := writeSegments s.rs.segments first segs
      match s.brokenProfile pool first count with
      | some p => (s, ⟨.range, byte1 p.val, none⟩)
      | none => (s.withRs { s.rs with segments := pool }, .done)
  else (s, .refuse .range)

/-! ### PUT PROFILE (R36, R37) -/

/-- R36, step 1. -/
def profileInRange (first count : Nat) : Bool :=
  decide (first ≤ 255 ∧ count ≤ 8 ∧ (1 ≤ count → first + count ≤ 256))

/-- R37: what the profile becomes. -/
def newProfile (first count : Nat) (tag : Option (Vector Byte 8)) : Profile :=
  if count = 0 then ⟨0, 0, tag⟩ else ⟨first, count, tag⟩

/-- R36, R37: PUT PROFILE. -/
def State.putProfile (s : State) (profile first count : Nat) (tag : Option (Vector Byte 8)) : State × Answer :=
  match finOf 64 profile with
  | some p =>
    if profileInRange first count then
      if s.profileLive p then (s, .refuse .inUse)
      else if (newProfile first count tag).ordered s.rs.segments then
        (s.withRs { s.rs with profiles := s.rs.profiles.set p (newProfile first count tag) }, .done)
      else (s, .refuse .range)
    else (s, .refuse .range)
  | none => (s, .refuse .range)

/-! ### PUT RECIPE (R38, R39) -/

/-- The contents of PUT RECIPE: EMPTY or RECIPE. -/
inductive Content where
  | empty
  | recipe (r : Recipe)
  deriving DecidableEq, Repr

/-- R38, step 1, for the content: none for RANGE (log entry 27). -/
def contentOf (content : Nat) (recipe : Option RecipeFields) : Option Content :=
  match content, recipe with
  | 0, none => some .empty
  | 1, some f => (Recipe.ofFields f).map .recipe
  | _, _ => none

/-- R38, step 3: every map entry names a defined profile. -/
def State.mapDefined (s : State) (r : Recipe) : Bool :=
  allOutputs.all (fun o =>
    match r.outputMap[o] with
    | some p => decide ((s.rs.profiles[p]).count ≠ 0)
    | none => true)

def State.setSlot (s : State) (j : SlotId) (v : Option Recipe) : State :=
  s.withRs { s.rs with slots := s.rs.slots.set j v }

/-- R38, R39: PUT RECIPE. -/
def State.putRecipe (s : State) (slot content : Nat) (recipe : Option RecipeFields) : State × Answer :=
  match finOf 16 slot, contentOf content recipe with
  | some j, some c =>
    if s.slotLive j then (s, .refuse .inUse)
    else
      match c with
      | .empty => (s.setSlot j none, .done)
      | .recipe r => if s.mapDefined r then (s.setSlot j (some r), .done) else (s, .refuse .range)
  | _, _ => (s, .refuse .range)

/-! ### Reads (R40 to R42, R185) -/

/-- R40: one segment of READ SEGMENTS. -/
def State.segmentLayout (s : State) (i : Nat) : List Byte :=
  match s.rs.segments[i]? with
  | some g => byte2 g.theta ++ byte2 g.width ++ flagByte (s.segmentLive i)
  | none => []

/-- R40: READ SEGMENTS. -/
def State.readSegments (s : State) (first count : Nat) : Answer :=
  if 1 ≤ count ∧ count ≤ 12 ∧ first + count ≤ 256 then .okWith ((runOf first count).flatMap s.segmentLayout)
  else .refuse .range

/-- R41, R185: the payload of READ PROFILE. -/
def State.profileLayout (s : State) (p : ProfileId) : List Byte :=
  let q := s.rs.profiles[p]
  let live := s.profileLive p
  let order := decide (q.count ≠ 0) && q.ordered s.rs.segments
  byte1 q.first ++ byte1 q.count ++ byte1 (boolCode q.tag.isSome + 2 * boolCode live + 4 * boolCode order)
    ++ (match q.tag with
        | some t => t.toList
        | none => List.replicate 8 0)

/-- R41: READ PROFILE. -/
def State.readProfile (s : State) (profile : Nat) : Answer :=
  match finOf 64 profile with
  | some p => .okWith (s.profileLayout p)
  | none => .refuse .range

/-- R42: whether an output's map entry names a profile that is undefined. -/
def State.undefinedEntry (s : State) (r : Recipe) (o : OutId) : Bool :=
  match r.outputMap[o] with
  | some p => decide ((s.rs.profiles[p]).count = 0)
  | none => false

/-- R42: the undefined entries as a mask of outputs. -/
def State.undefinedMask (s : State) (r : Recipe) : Nat :=
  allOutputs.foldr (fun o n => boolCode (s.undefinedEntry r o) + 2 * n) 0

/-- R42, R185: the liveness items of READ RECIPE. -/
def State.livenessLayout (s : State) (j : SlotId) (undef : Nat) : List Byte :=
  flagByte (s.isCurrent j) ++ flagByte (s.isArmed j) ++ byte1 (s.recordsWith j) ++ byte2 undef

/-- R42: READ RECIPE. -/
def State.readRecipe (s : State) (slot : Nat) : Answer :=
  match finOf 16 slot with
  | some j =>
    match s.recipe j with
    | some r => .okWith (byte1 1 ++ r.fields.payload ++ s.livenessLayout j (s.undefinedMask r))
    | none => .okWith (byte1 0 ++ s.livenessLayout j 0)
  | none => .refuse .range

end Sys2Proof.Machine
end

