-- ==== Sys2Proof/Machine/Reads.lean ====
section
/-! DEFINITION. The nine commands open to every role: their owners and their rows. The eight reads leave the state as it
stands. -/

namespace Sys2Proof.Machine

/-! ### Owners -/

/-- READ STATUS (R183). -/
def ownReadStatus : Owner := fun s => (s, .okWith s.statusLayout)

/-- The payload of one part of READ CONFIG, none for a part outside the table (R184). -/
def State.partLayout (s : State) (part : Nat) : Option (List Byte) :=
  match part with
  | 0 => some s.lineLayout
  | 1 => some (s.outputsLayout lowOutputs)
  | 2 => some (s.outputsLayout highOutputs)
  | 3 => some s.trimLayout
  | 4 => some s.pointsLayout
  | _ => none

/-- READ CONFIG (R184). -/
def ownReadConfig (part : Nat) : Owner := fun s =>
  match s.partLayout part with
  | some l => (s, .okWith l)
  | none => (s, .refuse .range)

/-- READ RECORD by SEQ (R63). -/
def State.readBySeq (s : State) (seq : Word32) : Answer :=
  match s.resolve seq with
  | .newer => .refuse .noRecord
  | .gone => .refuse .late
  | .found pos r => .okWith (r.layout pos)

/-- READ RECORD by POSITION (R63). -/
def State.readByPosition (s : State) (pos : Nat) : Answer :=
  if s.config.lineLength ≤ pos then .refuse .range
  else
    match s.recordAt pos with
    | some r => .okWith (r.layout pos)
    | none => .refuse .empty

/-- READ RECORD (R63). -/
def ownReadRecord (by_ key : Nat) : Owner := fun s =>
  match by_ with
  | 0 => (s, s.readBySeq (BitVec.ofNat 32 key))
  | 1 => (s, s.readByPosition key)
  | _ => (s, .refuse .range)

/-- READ SEGMENTS (R40). -/
def ownReadSegments (first count : Nat) : Owner := fun s => (s, s.readSegments first count)

/-- READ PROFILE (R41). -/
def ownReadProfile (profile : Nat) : Owner := fun s => (s, s.readProfile profile)

/-- READ RECIPE (R42). -/
def ownReadRecipe (slot : Nat) : Owner := fun s => (s, s.readRecipe slot)

/-- READ BATCH (R139). -/
def ownReadBatch : Owner := fun s => (s, .okWith s.cu.layout)

/-- The payload of BOX PEEK and BOX TAKE (R148, R149). -/
def boxPayload (e : BoxEntry) (occupancy : Nat) : List Byte := e.layout ++ byte1 occupancy

/-- BOX PEEK (R148). -/
def ownBoxPeek : Owner := fun s =>
  match s.bq.entries with
  | e :: _ => (s, .okWith (boxPayload e s.occupancy))
  | [] => (s, .refuse .empty)

/-- How many notices one NOTICE TAKE removes at most (R187). -/
def takeLimit : Nat := 4

/-- The payload of NOTICE TAKE (R187). -/
def takenLayout (taken : List NoticeRecord) : List Byte := byte1 taken.length ++ taken.flatMap NoticeRecord.layout

/-- NOTICE TAKE (R187): the oldest notices of the port leave, and the overflow flag is reported and cleared. -/
def ownNoticeTake (p : PortId) : Owner := fun s =>
  let q := s.port p
  (s.setPort p { q with queue := q.queue.drop takeLimit, overflow := false },
    ⟨.ok, takenLayout (q.queue.take takeLimit), some q.overflow⟩)

/-! ### Rows -/

def execReadStatus (p : PortId) (s : State) : Host.Outcome State Fault Refusal :=
  .next (s.takeCommand p (.readStatus p) ownReadStatus)

def execReadConfig (p : PortId) (part : Nat) (s : State) : Host.Outcome State Fault Refusal :=
  .next (s.takeCommand p (.readConfig p part) (ownReadConfig part))

def execReadRecord (p : PortId) (by_ key : Nat) (s : State) : Host.Outcome State Fault Refusal :=
  .next (s.takeCommand p (.readRecord p by_ key) (ownReadRecord by_ key))

def execReadSegments (p : PortId) (first count : Nat) (s : State) : Host.Outcome State Fault Refusal :=
  .next (s.takeCommand p (.readSegments p first count) (ownReadSegments first count))

def execReadProfile (p : PortId) (profile : Nat) (s : State) : Host.Outcome State Fault Refusal :=
  .next (s.takeCommand p (.readProfile p profile) (ownReadProfile profile))

def execReadRecipe (p : PortId) (slot : Nat) (s : State) : Host.Outcome State Fault Refusal :=
  .next (s.takeCommand p (.readRecipe p slot) (ownReadRecipe slot))

def execReadBatch (p : PortId) (s : State) : Host.Outcome State Fault Refusal :=
  .next (s.takeCommand p (.readBatch p) ownReadBatch)

def execBoxPeek (p : PortId) (s : State) : Host.Outcome State Fault Refusal :=
  .next (s.takeCommand p (.boxPeek p) ownBoxPeek)

def execNoticeTake (p : PortId) (s : State) : Host.Outcome State Fault Refusal :=
  .next (s.takeCommand p (.noticeTake p) (ownNoticeTake p))

end Sys2Proof.Machine
end

