-- ==== Sys2Proof/Machine/Counting.lean ====
section
/-! DEFINITION. The Count Unit (07), the Box Queue's appending (08) and the completion of run records (R58, R59). -/

namespace Sys2Proof.Machine

/-- The occupancy at which FULL and forced closes, CLOSE BATCH and the switch are held back (08 section 8.3). -/
def heldBackAt : Nat := 15

/-- The most entries the Box Queue holds (R145). -/
def boxLimit : Nat := 16

/-- Whether the closes that can wait, and the switch, have room (08 section 8.3). -/
def State.hasRoom (s : State) : Bool := decide (s.occupancy < heldBackAt)

/-! ### Run records (R57 to R59) -/

/-- The run record of a run: the current or the ending one (R58). -/
def State.runRecordOf (s : State) (run : Word32) : Option RunRecord :=
  match s.tl.current with
  | some c =>
    if c.number = run then some c
    else s.tl.ending.filter (fun e => e.number == run)
  | none => s.tl.ending.filter (fun e => e.number == run)

/-- Changes the run record of a run. -/
def State.modifyRun (s : State) (run : Word32) (f : RunRecord → RunRecord) : State :=
  let g := fun r : RunRecord => if r.number = run then f r else r
  s.withTl { s.tl with current := s.tl.current.map g, ending := s.tl.ending.map g }

/-- R58: births and the count of the fate, wrapping. An UNDECIDED record does not reach the count position. -/
def RunRecord.counted (r : RunRecord) (f : Fate) : RunRecord :=
  match f with
  | .undecided => { r with births := r.births + 1 }
  | .good => { r with births := r.births + 1, good := r.good + 1 }
  | .reject => { r with births := r.births + 1, reject := r.reject + 1 }
  | .sample => { r with births := r.births + 1, sample := r.sample + 1 }
  | .void => { r with births := r.births + 1, voids := r.voids + 1 }

/-- R59: RUN ENDED with the record's counts. -/
def State.sendRunEnded (s : State) (r : RunRecord) : State := s.notify (toRoles .line .pack) (.runEnded r)

/-- R59, R162: the ending run record completes and the transition ends. -/
def State.completeEnding (s : State) : State :=
  match s.tl.ending with
  | some r =>
    let s1 := s.sendRunEnded r
    (s1.withTl { s1.tl with ending := none }).withCc { s1.cc with transition := none }
  | none => s

/-! ### Counting a record (R127, R128) -/

/-- R128: the run, slot and job code that the first GOOD record gives the batch. Every record that is counted has a run
record (R58); log entry 24 says what stands here where it has none. -/
def State.newOwner (s : State) (r : Record) (run : Word32) : BatchOwner :=
  match s.runRecordOf run with
  | some rr => ⟨run, r.slot.getD rr.slot, rr.jobCode, r.seq, r.seq⟩
  | none => ⟨run, r.slot.getD 0, 0, r.seq, r.seq⟩

/-- R128: the open batch with a GOOD record counted into it. -/
def State.countGood (s : State) (b : OpenBatch) (r : Record) (run : Word32) : OpenBatch :=
  { b with
    good := satInc b.good
    suspect := if hasCode r.defects Code.disturbed then satInc b.suspect else b.suspect
    owner :=
      match b.owner with
      | some o => some { o with lastSeq := r.seq }
      | none => some (s.newOwner r run) }

/-- R127: the record at the count position is counted in the open batch by its fate, and its batch number written. -/
def State.countInBatch (s : State) (r : Record) : State :=
  match r.run with
  | none => s
  | some run =>
    let b := s.cu.batch
    match r.fate with
    | .good =>
      (s.withCu { s.cu with batch := s.countGood b r run }).modifyAt s.config.count
        (fun r => { r with batch := some b.number })
    | .reject => s.withCu { s.cu with batch := { b with reject := satInc b.reject } }
    | .sample => s.withCu { s.cu with batch := { b with sample := satInc b.sample } }
    | .void => s
    | .undecided => s

/-- R127, R58: counted in the open batch and in the run record, in one event. -/
def State.countRecord (s : State) (r : Record) : State :=
  let s1 := s.countInBatch r
  match r.run with
  | some run => s1.modifyRun run (fun rr => rr.counted r.fate)
  | none => s1

/-! ### Closing (R130 to R135, R142, R144) -/

/-- The entry of a close: the open batch record with the reason. None where the good count is 0. -/
def OpenBatch.entry (b : OpenBatch) (reason : CloseReason) : Option BoxEntry :=
  match b.owner with
  | some o =>
    if b.good = 0 then none else some ⟨b.number, o, b.good, b.reject, b.sample, b.suspect, reason, b.overrun⟩
  | none => none

/-- R134, steps 2 to 4, with the backlog test after BATCH CLOSED. -/
def State.closeWith (s : State) (e : BoxEntry) : State :=
  let s1 := s.withBq { s.bq with entries := s.bq.entries ++ [e] }
  let s2 := (s1.notify (toRole .pack) (.batchClosed e.number e.reason e.good)).testBacklog
  s2.withCu { s2.cu with batch := .opened (s2.cu.nextBatch + 1), nextBatch := s2.cu.nextBatch + 1 }

/-- R135: the open batch ends without an entry and opens again under its number. -/
def State.discardBatch (s : State) : State := s.withCu { s.cu with batch := .opened s.cu.nextBatch }

/-- R134: a close at a count arrival marks the arriving record. -/
def State.markClosing (s : State) : State := s.modifyAt s.config.count (fun r => { r with closing := true })

/-- The open batch closes at a count arrival, or is discarded with a good count of 0. -/
def State.endBatch (s : State) (reason : CloseReason) : State :=
  match s.cu.batch.entry reason with
  | some e => s.markClosing.closeWith e
  | none => s.discardBatch

/-- R142: the CLEAR close or the discard, with no mark. -/
def State.clearBatch (s : State) : State :=
  match s.cu.batch.entry .clear with
  | some e => s.closeWith e
  | none => s.discardBatch

def State.setForce (s : State) (v : Bool) : State := s.withCu { s.cu with forcePending := v }

/-- R133: the good count is at least the batch size of the batch's slot. -/
def State.batchFull (s : State) : Bool :=
  match s.cu.batch.owner with
  | some o =>
    match s.recipe o.slot with
    | some j => decide (j.batchSize ≤ s.cu.batch.good.toNat)
    | none => false
  | none => false

/-- R131: RUN END. -/
def State.runEndClose (s : State) : State := ((s.endBatch .runEnd).setForce false).completeEnding

/-- R132: FORCED. -/
def State.forcedClose (s : State) : State := (s.endBatch .forced).setForce false

/-- R133: FULL, or deferred with the overrun flag set. -/
def State.fullClose (s : State) : State :=
  if s.hasRoom then s.endBatch .full
  else s.withCu { s.cu with batch := { s.cu.batch with overrun := true } }

/-- R130: the first close test that holds. -/
def State.closeTests (s : State) (r : Record) : State :=
  if r.lastOfRun then s.runEndClose
  else if s.cu.forcePending = true ∧ s.hasRoom = true then s.forcedClose
  else if s.batchFull then s.fullClose
  else s

/-- R127, R130: the count arrival of a pitch advance, if a record stands at the count position. -/
def State.countArrival (s : State) : State :=
  match s.recordAt s.config.count with
  | some r => (s.countRecord r).closeTests r
  | none => s

end Sys2Proof.Machine
end

