-- ==== Sys2Proof/Machine/Changeover.lean ====
section
/-! DEFINITION. Changeover Control (09): the switch test, the switch, births since arming. -/

namespace Sys2Proof.Machine

/-- R158, R159: whether the condition of the armed job's mode holds. -/
def JobMode.due (m : JobMode) (births : Nat) (current : Option CurrentRun) : Bool :=
  match m with
  | .immediate => true
  | .afterBirths n => current.isNone || decide (n ≤ births)

/-- Nothing armed, with births since arming, the last counted birth and deferral reported at their values without a job. -/
def CC.disarmed (c : CC) : CC := { c with armed := none, births := 0, lastCounted := none, deferred := false }

/-- R160, step 1: the previous birth, at the head of the ring before the advance, is marked last of run; its run becomes
the ending run, and the transition begins. -/
def State.beginTransition (s : State) (prev : Record) (run : Word32) : State :=
  let s1 := s.modifyAt 0 (fun r => { r with lastOfRun := true })
  let ended := s1.tl.current.map (fun r => { r with lastSeq := some prev.seq })
  (s1.withTl { s1.tl with current := none, ending := ended }).withCc
    { s1.cc with current := none, transition := some ⟨run, prev.seq⟩ }

/-- R160, step 2: the previous birth was removed by TRACK CLEAR: its run completes at once, with no transition. -/
def State.completeCleared (s : State) (cur : RunRecord) : State :=
  let s1 := s.sendRunEnded { cur with lastSeq := some (s.tl.nextSeq - 1) }
  (s1.withTl { s1.tl with current := none }).withCc { s1.cc with current := none }

/-- R160, steps 1 and 2: the run that a switch ends. -/
def State.endCurrent (s : State) : State :=
  match s.recordAt 0 with
  | some prev =>
    match prev.run with
    | some run => s.beginTransition prev run
    | none => s.withCc { s.cc with current := none }
  | none =>
    match s.tl.current with
    | some cur => s.completeCleared cur
    | none => s.withCc { s.cc with current := none }

/-- R160, step 3: the run that a switch to a slot starts, and its job code. An armed slot holds a recipe (R30); log entry
24 says what stands here where it does not. -/
def State.openRun (s : State) (j : SlotId) : State :=
  let code := match s.recipe j with
    | some r => r.jobCode
    | none => 0
  let rr : RunRecord := ⟨s.tl.nextRun, j, code, s.tl.nextSeq, none, 0, 0, 0, 0, 0, 0⟩
  (s.withTl { s.tl with current := some rr, nextRun := s.tl.nextRun + 1 }).withCc
    { s.cc with current := some ⟨s.tl.nextRun, j⟩ }

/-- What RUN STARTED says of the new run (R165). -/
def State.startedRun (s : State) : Option (CurrentRun × Word32) :=
  match s.cc.current, s.tl.current with
  | some c, some r => some (c, r.jobCode)
  | _, _ => none

/-- R160: the switch, in the order of its steps. At a switch to slot NONE no run starts, and the first seq that RUN STARTED
carries is the seq of this advance's newborn, by the model's choice (log entry 16). -/
def State.takeSwitch (s : State) (slot : Option SlotId) : State :=
  let s1 := s.endCurrent
  let s2 := match slot with
    | some j => s1.openRun j
    | none => s1
  let s3 := s2.notify (toRole .line) (.runStarted s2.startedRun s2.tl.nextSeq s2.cc.transition)
  s3.withCc s3.cc.disarmed

/-- R159: the switch is deferred; the first deferral is reported. The births since arming that SWITCH DEFERRED carries are those
before the birth of this advance, by the model's choice (log entry 30). -/
def State.deferSwitch (s : State) (job : ArmedJob) : State :=
  if s.cc.deferred then s
  else
    (s.notify (toRole .line) (.switchDeferred job.slot job.mode s.cc.births s.occupancy)).withCc
      { s.cc with deferred := true }

/-- R159: the switch test of a pitch advance. -/
def State.switchTest (s : State) : State :=
  match s.cc.armed with
  | some job =>
    if job.mode.due s.cc.births s.cc.current then
      if s.hasRoom then s.takeSwitch job.slot else s.deferSwitch job
    else s
  | none => s

/-- R158: a PRESENT birth of the current run while a job is armed. -/
def State.countBirth (s : State) (r : Record) : State :=
  if s.cc.armed.isSome = true ∧ r.void = false ∧ r.run.isSome = true ∧ r.run = s.cc.current.map CurrentRun.number then
    s.withCc { s.cc with births := min 65535 (s.cc.births + 1), lastCounted := some r.seq }
  else s

/-- R158: a BLANK effect on a PRESENT record of the current run is reported. -/
def State.uncountBirth (s : State) (r : Record) : State :=
  if r.run.isSome = true ∧ r.run = s.cc.current.map CurrentRun.number ∧ s.cc.lastCounted = some r.seq
      ∧ 0 < s.cc.births then
    s.withCc { s.cc with births := s.cc.births - 1, lastCounted := none }
  else s

end Sys2Proof.Machine
end

