-- ==== Sys2Proof/Machine/Firing.lean ====
section
/-! DEFINITION. The Firing Unit (04): advances and widths, on points and expiry points, arming, judgement, pulses, forced off,
omissions, recomputation. -/

namespace Sys2Proof.Machine

/-! ### The arithmetic of section 4.6 -/

/-- The limit of an advance (R73). -/
def advanceLimit : Nat := 2048

/-- R73: the latency as the angle the line turns through during it, before the limit. -/
def rawAdvance (latency speed : Nat) : Nat := roundDiv (latency * speed * 4096) 60000000

/-- R73: the advance within its limit. -/
def advance (latency speed : Nat) : Nat := min advanceLimit (rawAdvance latency speed)

/-- R73: whether either advance of the configuration was set to its limit. -/
def OutputConfig.clampedAt (c : OutputConfig) (speed : Nat) : Bool :=
  decide (advanceLimit < rawAdvance c.lon speed) || decide (advanceLimit < rawAdvance c.loff speed)

/-- R74: the trimmed width W'. -/
def trimmedWidth (w t : Nat) : Nat := max 1 (min 4095 (roundDiv (w * t) 128))

/-- R75: W' + A_on − A_off before its limits. -/
def rawWidth (w t aOn aOff : Nat) : Int := (trimmedWidth w t : Int) + aOn - aOff

/-- R75: the effective width Ew, within 1 to 4,095. -/
def effectiveWidth (w t aOn aOff : Nat) : Int := clampInt 1 4095 (rawWidth w t aOn aOff)

/-- R75: whether Ew was set to one of its limits. -/
def widthClamped (w t aOn aOff : Nat) : Bool :=
  decide (rawWidth w t aOn aOff < 1) || decide (4095 < rawWidth w t aOn aOff)

/-- R105: the trim value an output uses, 128 for trim group NONE. -/
def State.trimOf (s : State) (c : OutputConfig) : Nat :=
  match c.trim with
  | some g => (s.group g).t
  | none => 128

/-- R76: the on point. -/
def onPoint (theta aOn : Nat) : Int := (theta : Int) - aOn

/-- The occurrence with its points from the output's advances and a trim value (R74 to R76). -/
def Occurrence.recompute (q : Occurrence) (aOn aOff t : Nat) : Occurrence :=
  { q with on := onPoint q.theta aOn, expiry := onPoint q.theta aOn + effectiveWidth q.width t aOn aOff }

/-- R70: the extended angle of something armed `k` pitch advances ago, at a point of the present cycle. -/
def extendedAngle (k : Nat) (backlash : Bool) (angle : Nat) : Int :=
  4096 * ((k : Int) - 1 - (if backlash then 1 else 0)) + angle

/-! ### Gating (R68) -/

/-- The gating test of a class on a record that stands in the ring. -/
def State.gatePasses (s : State) (cls : GatingClass) (r : Record) : Bool :=
  match cls with
  | .always => true
  | .present =>
    !r.void &&
    match s.recipeOf r with
    | some j => !meets r.defects j.skipMask
    | none => true
  | .reject => r.fate == .reject
  | .sample => r.fate == .sample
  | .closing => r.closing

/-- The gating test of a gated record by its seq: it fails for a record that has left the ring. -/
def State.gateOpen (s : State) (cls : GatingClass) (seq : Word32) : Bool :=
  match s.recordOf seq with
  | some r => s.gatePasses cls r
  | none => false

/-! ### Omissions (R81) -/

/-- The output's omission code joins the gated record's defects. -/
def State.writeOmission (s : State) (c : OutputConfig) (seq : Word32) : State :=
  match c.omission with
  | some code => s.modifyRecord seq (fun r => r.addDefect code)
  | none => s

/-- An omission whose gating test was passed before (SUPPRESSED, FORCED OFF): only for class PRESENT. -/
def State.omitPassed (s : State) (c : OutputConfig) (seq : Word32) : State :=
  if c.gating = .present then s.writeOmission c seq else s

/-- An omission that makes its gating test now (EXPIRED, CANCELLED): only for class PRESENT. -/
def State.omitTested (s : State) (c : OutputConfig) (seq : Word32) : State :=
  if c.gating = .present ∧ s.gateOpen .present seq = true then s.writeOmission c seq else s

/-! ### Judgement (R77, R78) -/

/-- R77: a judgement is made while b is 0, the count direction is FORWARD and the line state is other than REVERSE. -/
def State.judgeAllowed (s : State) : Bool :=
  !s.pu.backlash && s.pu.dir == .forward && s.pu.lineState != .reverse

/-- What a judgement finds (R77, R78). -/
inductive Judgement where
  | stays
  | heldBack
  | suppressed
  | fires
  | expired
  deriving DecidableEq, Repr

/-- The judgement of an occurrence at extended angle `x` of an event that goes on to `xEnd` (R77, R78; log entry 13). An
event that passes both points expires the occurrence once the expiry point is reached. -/
def State.judgement (s : State) (u : OutputUnit) (q : Occurrence) (x xEnd : Int) : Judgement :=
  if q.expiry ≤ x then .expired
  else if x < q.on ∨ q.expiry ≤ xEnd then .stays
  else if s.gateOpen u.config.gating q.seq = false then .heldBack
  else if u.config.runOnly = true ∧ s.pu.lineState ≠ .run then .suppressed
  else .fires

/-- R78: whether a firing of the occurrence uses a clamped value (R75). -/
def State.firesClamped (s : State) (u : OutputUnit) (q : Occurrence) : Bool :=
  u.clamped || widthClamped q.width (s.trimOf u.config) u.aOn u.aOff

/-- R78: the pulse begins, with x_off latched at the expiry point; TIMING LIMIT for a PRESENT-class firing with a clamped
value. -/
def State.beginPulse (s : State) (o : OutId) (q : Occurrence) : State :=
  let u := s.output o
  let s1 := s.setOutput o { u with pulses := u.pulses ++ [⟨q.seq, q.segment, q.expiry, q.k⟩] }
  if u.config.gating = .present ∧ s.firesClamped u q = true then
    s1.modifyRecord q.seq (fun r => r.addDefect Code.timingLimit)
  else s1

/-- Carries out a judgement; answers whether the occurrence stays ARMED. -/
def State.applyJudgement (s : State) (o : OutId) (q : Occurrence) (j : Judgement) : State × Bool :=
  match j with
  | .stays => (s, true)
  | .heldBack => (s, false)
  | .suppressed => (s.omitPassed (s.output o).config q.seq, false)
  | .fires => (s.beginPulse o q, false)
  | .expired => (s.omitTested (s.output o).config q.seq, false)

/-- Judges a list of occurrences of one output in order; answers the state and those that stay ARMED. `angle` is the point
of the present cycle reached, `ahead` the points the event passes after it. -/
def State.judgeList (o : OutId) (angle ahead : Nat) : List Occurrence → State → State × List Occurrence
  | [], s => (s, [])
  | q :: rest, s =>
    let x := extendedAngle q.k s.pu.backlash angle
    let r := s.applyJudgement o q (s.judgement (s.output o) q x (x + ahead))
    let t := State.judgeList o angle ahead rest r.1
    (t.1, if r.2 then q :: t.2 else t.2)

/-- Judges the armed occurrences of one output. -/
def State.judgeOutput (s : State) (angle ahead : Nat) (o : OutId) : State :=
  let r := State.judgeList o angle ahead (s.output o).armed s
  r.1.setOutput o { r.1.output o with armed := r.2 }

/-- Judges every output, where a judgement is allowed (R77). -/
def State.judgeAll (s : State) (angle ahead : Nat) : State :=
  if s.judgeAllowed then allOutputs.foldl (fun s o => s.judgeOutput angle ahead o) s else s

/-- The judgement after a recomputation, with the angle as it stands (R76, R80), for one output. -/
def State.judgeHere (s : State) (o : OutId) : State :=
  if s.judgeAllowed then s.judgeOutput s.pu.angle 0 o else s

/-! ### Pulses (R79, R82, R83) -/

/-- R79: the pulses whose x_off has been passed end. -/
def State.endPulses (s : State) : State :=
  s.withFu ⟨Vector.ofFn fun o : OutId =>
    let u := s.fu.outputs[o]
    { u with pulses := u.pulses.filter (fun q => extendedAngle q.k s.pu.backlash s.pu.angle < q.off) }⟩

/-- The pulses of one output are FORCED OFF: an omission each for class PRESENT (R81). -/
def State.forceOff (s : State) (o : OutId) : State :=
  let u := s.output o
  let s1 := s.setOutput o { u with pulses := [] }
  u.pulses.foldl (fun s q => s.omitPassed u.config q.seq) s1

/-- R82: entry to REVERSE forces off every pulse. -/
def State.forceOffAll (s : State) : State := allOutputs.foldl State.forceOff s

/-- R83: leaving RUN forces off the pulses of run-only outputs. -/
def State.forceOffRunOnly (s : State) : State :=
  allOutputs.foldl (fun s o => if (s.output o).config.runOnly then s.forceOff o else s) s

/-- R89: every test pulse ends. -/
def State.endTests (s : State) : State :=
  s.withFu ⟨Vector.ofFn fun o : OutId => { s.fu.outputs[o] with test := none }⟩

/-- The time base counts every test pulse down by `n` microseconds; one that reaches 0 ends (R88, R89). -/
def State.elapse (s : State) (n : Nat) : State :=
  s.withFu ⟨Vector.ofFn fun o : OutId =>
    let u := s.fu.outputs[o]
    { u with test := u.test.bind (fun left => if left ≤ n then none else some (left - n)) }⟩

/-! ### Recomputation (R73, R76, R85) -/

/-- R73, R85: the advances and the clamp state of one output from S, with TIMING LIMIT when the clamp state changes, and the
points of its ARMED occurrences (R76). A disabled output holds 0, 0 and CLEAR. -/
def State.recomputeOutput (s : State) (o : OutId) : State :=
  let u := s.output o
  let v := s.pu.speed
  if u.config.enable then
    let clamped := u.config.clampedAt v
    let aOn := advance u.config.lon v
    let aOff := advance u.config.loff v
    let s1 := s.setOutput o { u with
      aOn := aOn, aOff := aOff, clamped := clamped,
      armed := u.armed.map (fun q => q.recompute aOn aOff (s.trimOf u.config)) }
    if clamped = u.clamped then s1
    else s1.notify (toRole .line)
      (.timingLimit o clamped v (rawAdvance u.config.lon v) (rawAdvance u.config.loff v))
  else
    let s1 := s.setOutput o { u with aOn := 0, aOff := 0, clamped := false }
    if u.clamped then s1.notify (toRole .line) (.timingLimit o false v 0 0) else s1

/-- The Firing Unit takes S: it recomputes every output, then judges (R73, R76, R80). The TIMING LIMIT notices stand in the
order of the output numbers by the model's choice (log entry 11). -/
def State.takeSpeed (s : State) : State :=
  let s1 := allOutputs.foldl State.recomputeOutput s
  s1.judgeAll s1.pu.angle 0

/-- A changed trim value: the points of the ARMED occurrences of every output of the group, each judged at once (R76,
R105). -/
def State.takeTrim (s : State) (g : Fin 3) : State :=
  allOutputs.foldl (fun s o =>
    let u := s.output o
    if u.config.trim = some g then
      (s.setOutput o { u with armed := u.armed.map (fun q => q.recompute u.aOn u.aOff (s.trimOf u.config)) }).judgeHere o
    else s) s

/-! ### Arming (R71) -/

/-- The segments of a profile, with their indexes, as they stand in the pool. -/
def RS.segmentsOf (rs : RS) (p : Profile) : List (Nat × Segment) :=
  (List.range p.count).filterMap (fun i => (rs.segments[p.first + i]?).map (fun g => (p.first + i, g)))

/-- A new occurrence of a segment for a record, k = 0 (R71). -/
def State.newOccurrence (s : State) (u : OutputUnit) (r : Record) (g : Nat × Segment) : Occurrence :=
  Occurrence.recompute ⟨r.seq, g.1, g.2.theta, g.2.width, 0, 0, 0⟩ u.aOn u.aOff (s.trimOf u.config)

/-- The profile that the output map of a record's slot names for an output, if it is defined. -/
def State.mappedProfile (s : State) (r : Record) (o : OutId) : Option Profile :=
  match s.recipeOf r with
  | some j =>
    match j.outputMap[o] with
    | some p => if s.rs.profiles[p].count = 0 then none else some s.rs.profiles[p]
    | none => none
  | none => none

/-- R71: an enabled output arms one occurrence for each segment of the mapped profile, for the record that has arrived at
station − 1. -/
def State.armOutput (s : State) (o : OutId) : State :=
  let u := s.output o
  if u.config.enable then
    match s.recordAt (u.config.station - 1) with
    | some r =>
      match s.mappedProfile r o with
      | some p => s.setOutput o { u with armed := u.armed ++ (s.rs.segmentsOf p).map (s.newOccurrence u r) }
      | none => s
    | none => s
  else s

def State.armAll (s : State) : State := allOutputs.foldl State.armOutput s

/-- R70: a pitch advance raises the k of every occurrence and pulse by one. -/
def State.advanceFiring (s : State) : State :=
  s.withFu ⟨Vector.ofFn fun o : OutId =>
    let u := s.fu.outputs[o]
    { u with
      armed := u.armed.map (fun q => { q with k := q.k + 1 })
      pulses := u.pulses.map (fun q => { q with k := q.k + 1 }) }⟩

/-- R81: at the pitch advance that brings its k to 2, an occurrence still ARMED expires when the line state is REVERSE. That the
advance's arrivals, the fate decision among them, come before this omission is the model's choice (log entry 31). -/
def State.expireLate (s : State) : State :=
  if s.pu.lineState = .reverse then
    allOutputs.foldl (fun s o =>
      let u := s.output o
      let late := u.armed.filter (fun q => decide (2 ≤ q.k))
      let s1 := s.setOutput o { u with armed := u.armed.filter (fun q => decide (q.k < 2)) }
      late.foldl (fun s q => s.omitTested u.config q.seq) s1) s
  else s

/-! ### The ends of work -/

/-- R90: TRACK CLEAR cancels every ARMED occurrence and ends every pulse, with no defect. -/
def State.clearFiring (s : State) : State :=
  s.withFu ⟨Vector.ofFn fun o : OutId => { s.fu.outputs[o] with armed := [], pulses := [] }⟩

/-- R87: the output's work under its old configuration ends: occurrences CANCELLED, pulses FORCED OFF, the test pulse
ended, with omissions under the old configuration. -/
def State.endWork (s : State) (o : OutId) : State :=
  let u := s.output o
  let s1 := s.setOutput o { u with armed := [], pulses := [], test := none }
  let s2 := u.armed.foldl (fun s q => s.omitTested u.config q.seq) s1
  u.pulses.foldl (fun s q => s.omitPassed u.config q.seq) s2

/-- R87: the changed configuration takes its new values; the advances and the clamp state follow from S. -/
def State.installOutput (s : State) (o : OutId) (c : OutputConfig) : State :=
  let s1 := s.endWork o
  (s1.setOutput o { s1.output o with config := c }).recomputeOutput o

end Sys2Proof.Machine
end

