-- ==== Sys2Proof/Machine/Tracking.lean ====
section
/-! DEFINITION. The Tracking Line (03) and the Inspection Unit's part of a pitch advance (06): probes, births, arrivals, the
fate decision, the pitch advance, the passing of points, TRACK CLEAR. -/

namespace Sys2Proof.Machine

/-! ### Probes (R52 to R54) -/

/-- The count at which a run of samples at the bad level stays: one more than the longest stable time. -/
def badRunLimit : Nat := 256

/-- R52: whether a sample is counted, for a probe whose bad level is seen stable. -/
def State.probeCounts (s : State) (c : ProbeConfig) : Bool :=
  (s.recordAt c.position).isSome && decide (c.onAngle ≤ s.pu.angle) && decide (s.pu.angle < c.offAngle)
    && !s.pu.backlash && s.pu.dir == .forward

/-- R52: one sample of a probe's input. A disabled probe observes nothing. -/
def State.sampleProbe (s : State) (u : ProbeUnit) (level : Bool) : ProbeUnit :=
  if u.config.enable then
    let run := if level = u.config.badHigh then min badRunLimit (u.badRun + 1) else 0
    { u with
      badRun := run
      seenBad := u.seenBad || (decide (u.config.stableTime + 1 ≤ run) && s.probeCounts u.config) }
  else u

/-- R52: one sample of the six probe inputs. -/
def State.sampleProbes (s : State) (levels : Vector Bool 6) : State :=
  s.withTl { s.tl with
    probes := Vector.ofFn fun i : Fin 6 => s.sampleProbe s.tl.probes[i] levels[i] }

/-- R53: a BLANK probe's effect on a record. -/
def Record.blank (r : Record) : Record :=
  if r.void then r
  else
    { r with
      void := true
      status := Vector.ofFn fun i : Fin 4 => if r.status[i] = .open_ then .notRequired else r.status[i] }

/-- R53: the effect of a probe's kind on the record at its position. -/
def State.probeEffect (s : State) (c : ProbeConfig) (r : Record) : State :=
  match c.kind with
  | .defect code => s.modifyAt c.position (fun r => r.addDefect code)
  | .blank =>
    let s1 := s.modifyAt c.position Record.blank
    if r.void then s1 else s1.uncountBirth r

/-- R53: the off-angle of a probe is passed: the record at its position is evaluated, once. -/
def State.passOffAngle (s : State) (i : Fin 6) : State :=
  let u := s.probe i
  match s.recordAt u.config.position with
  | some r =>
    if u.lastEval = some r.seq then s
    else
      let s1 := if u.seenBad then s.probeEffect u.config r else s
      s1.setProbe i { u with lastEval := some r.seq, seenBad := false }
  | none => s

/-- R54, R64: every probe's seen-bad flag is cleared. -/
def State.clearSeen (s : State) : State :=
  s.withTl { s.tl with probes := Vector.ofFn fun i : Fin 6 => { s.tl.probes[i] with seenBad := false } }

/-! ### Points passed forward (R5) -/

/-- A probe put into a list ordered by off-angle, after those of the same or a smaller one. -/
def State.insertStop (s : State) (i : Fin 6) : List (Fin 6) → List (Fin 6)
  | [] => [i]
  | j :: rest =>
    if (s.probe i).config.offAngle < (s.probe j).config.offAngle then i :: j :: rest
    else j :: State.insertStop s i rest

/-- The enabled probes whose off-angle lies among the points after `lo` up to `hi`, in the order of their off-angles. -/
def State.stops (s : State) (lo hi : Nat) : List (Fin 6) :=
  allProbes.foldl (fun l i =>
    let c := (s.probe i).config
    if c.enable = true ∧ lo < c.offAngle ∧ c.offAngle ≤ hi then s.insertStop i l else l) []

/-- The points after `lo` up to `hi` of the present cycle are passed forward with b = 0, by an event that passes `ahead`
points more. The occurrences are judged up to each off-angle before its probe acts (log entry 12), then at `hi`. -/
def State.passForward (s : State) (lo hi ahead : Nat) : State :=
  let s1 := (s.stops lo hi).foldl (fun s i =>
    let off := (s.probe i).config.offAngle
    (s.judgeAll (off - 1) (ahead + (hi + 1 - off))).passOffAngle i) s
  s1.judgeAll hi ahead

/-! ### Births (R47, R110) -/

/-- R110, R111, R118: a point's status becomes TIMED OUT and its policy applies. -/
def Record.timeOut (r : Record) (i : Fin 4) (policy : TimeoutPolicy) : Record :=
  let r1 := r.setStatus i .timedOut
  match policy with
  | .reject => r1.addDefect Code.verdictTimeout
  | .pass => r1

/-- R47: the defects of a newborn. -/
def State.birthDefects (s : State) (recipe : Option Recipe) : List Code :=
  (if 0 < s.tl.splice then [Code.splice] else [])
    ++ (match recipe with
        | some j => if s.pu.speed < j.minSpeed then [Code.ramp] else []
        | none => [])
    ++ (if s.fh.tracking then [Code.disturbed] else [])

/-- R47: the newborn of the run that Changeover Control gives, before the disabled points act. -/
def State.newborn (s : State) : Record :=
  let recipe := s.cc.current.bind (fun c => s.recipe c.slot)
  Record.addDefects
    { seq := s.tl.nextSeq
      run := s.cc.current.map CurrentRun.number
      slot := s.cc.current.map CurrentRun.slot
      birthPitch := s.pu.pitch
      void := s.cc.current.isNone
      defects := 0
      status := Vector.ofFn fun i : Fin 4 =>
        match recipe with
        | some j => if j.points[i] then .open_ else .notRequired
        | none => .notRequired
      deposit := none
      fate := .undecided
      closing := false
      batch := none
      lastOfRun := false }
    (s.birthDefects recipe)

/-- R110: every required point that is disabled times the newborn out. -/
def State.timeOutDisabled (s : State) (r : Record) : Record :=
  allPoints.foldl (fun r i =>
    if r.status[i] = .open_ ∧ (s.point i).config.enable = false then r.timeOut i (s.point i).config.policy else r) r

/-- R48, steps 1 to 3: the record at P−1 retires, the others move, a record is born at position 0. -/
def State.birth (s : State) : State :=
  let r := s.timeOutDisabled s.newborn
  (s.withTl { s.tl with
    ring := r :: s.tl.ring.take (s.config.lineLength - 1)
    nextSeq := s.tl.nextSeq + 1
    born := true
    splice := s.tl.splice - 1 }).countBirth r

/-! ### Arrivals at the inspection points (R111, R118, R119) -/

/-- R111: an arrival at I of an enabled point. -/
def State.inspectionArrival (s : State) (i : Fin 4) : State :=
  let u := s.point i
  match s.recordAt u.config.inspection with
  | some r =>
    if r.status[i] = .open_ then
      if u.offline then s.modifyAt u.config.inspection (fun r => r.timeOut i u.config.policy)
      else s.notify (toPort u.config.port) (.arrival i r.seq r.run r.slot)
    else s
  | none => s

/-- R119: the point goes OFFLINE. -/
def State.takeOffline (s : State) (i : Fin 4) (seq : Word32) : State :=
  let u := s.point i
  ((s.setPoint i { u with offline := true }).notify (toPortAndLine u.config.port)
    (.pointOffline i seq u.config.limit)).setOffline i true

/-- R118: the deadline of an enabled point, for a record that is still OPEN. -/
def State.deadline (s : State) (i : Fin 4) : State :=
  let u := s.point i
  match s.recordAt u.config.deadline with
  | some r =>
    if r.status[i] = .open_ then
      let n := if u.timeouts < u.config.limit then u.timeouts + 1 else u.timeouts
      let s1 := s.modifyAt u.config.deadline (fun r => r.timeOut i u.config.policy)
      let s2 := s1.notify (toPort u.config.port) (.verdictMissed i r.seq r.run r.slot u.config.policy n)
      let s3 := s2.setPoint i { u with timeouts := n }
      if u.timeouts < u.config.limit ∧ n = u.config.limit ∧ u.offline = false then s3.takeOffline i r.seq else s3
    else s
  | none => s

/-- R49, R111: the arrivals of one pitch advance at an enabled point; the arrival at I is judged by the point state held
before the advance. -/
def State.pointArrivals (s : State) (i : Fin 4) : State :=
  if (s.point i).config.enable then (s.inspectionArrival i).deadline i else s

/-! ### The fate decision (R55, R56) -/

/-- R56: a would-be-good record: its fate, the pending pulls after it and the auto-sample counter after it, from the interval,
the counter and the pulls before. -/
def sampleDraw (interval counter pulls : Nat) : Fate × Nat × Nat :=
  let c := if 1 ≤ interval then counter + 1 else counter
  if 0 < pulls ∨ (0 < interval ∧ c = interval) then (.sample, pulls - 1, if c = interval then 0 else c)
  else (.good, pulls, c)

/-- R55, tests 1 to 3: the fate that the defects and the presence give, or none for a would-be-good record. -/
def Record.earlyFate (r : Record) (rejectMask : CodeSet) : Option Fate :=
  if hasCode r.defects Code.disturbed then some .reject
  else if r.void then some .void
  else if meets r.defects rejectMask then some .reject
  else none

/-- The auto-sample counter of a record's run record. -/
def State.autoCountOf (s : State) (r : Record) : Nat :=
  match r.run.bind s.runRecordOf with
  | some rr => rr.autoCount
  | none => 0

/-- R55, R56: the fate of a record that arrives at the decision position. -/
def State.decideRecord (s : State) (r : Record) : State :=
  let recipe := s.recipeOf r
  let mask := (recipe.map Recipe.rejectMask).getD 0
  match r.earlyFate mask with
  | some f => s.modifyAt s.config.decision (fun r => { r with fate := f })
  | none =>
    let interval := (recipe.map Recipe.autoSample).getD 0
    let d := sampleDraw interval (s.autoCountOf r) s.tl.pulls
    let s1 := s.modifyAt s.config.decision (fun r => { r with fate := d.1 })
    let s2 := s1.withTl { s1.tl with pulls := d.2.1 }
    match r.run with
    | some run => s2.modifyRun run (fun rr => { rr with autoCount := d.2.2 })
    | none => s2

/-- R55: the decision of a pitch advance. The fate is written once (R46). -/
def State.decideFate (s : State) : State :=
  match s.recordAt s.config.decision with
  | some r => if r.fate = .undecided then s.decideRecord r else s
  | none => s

/-! ### The pitch advance (R8, R48, R49) -/

/-- The inspection points in ascending order round from `first`. -/
def pointsFrom (first : Fin 4) : List (Fin 4) := [first, first + 1, first + 2, first + 3]

/-- The arrivals at the inspection points, one point after another from `first`. -/
def State.inspectFrom (s : State) (first : Fin 4) : State := (pointsFrom first).foldl State.pointArrivals s

/-- The arrivals with the inspection points first. -/
def State.inspectThenCount (s : State) (first : Fin 4) : State := (s.inspectFrom first).decideFate.countArrival

/-- The arrivals with the count position first. -/
def State.countThenInspect (s : State) (first : Fin 4) : State := (s.countArrival.inspectFrom first).decideFate

/-- How many hold causes of the inspection points and of the backlog stand after an event and did not before it. -/
def newCauses (before after : FH) : Nat :=
  (allPoints.filter (fun i => after.offline[i] && !before.offline[i])).length
    + (if after.backlog && !before.backlog then 1 else 0)

/-- R176: a notice with more hold causes named beside its own, where it says that HOLD became ACTIVE. -/
def Notice.withCauses (n : Notice) (offline : Vector Bool 4) (backlog : Bool) : Notice :=
  match n with
  | .holdChanged true faults off standing =>
    .holdChanged true faults (Vector.ofFn fun i : Fin 4 => off[i] || offline[i]) (standing || backlog)
  | n => n

/-- The queue of a port with more causes named in the notices that joined it after the first `n`. -/
def Port.nameCauses (q : Port) (n : Nat) (offline : Vector Bool 4) (backlog : Bool) : Port :=
  { q with
    queue := q.queue.take n ++ (q.queue.drop n).map (fun r => { r with notice := r.notice.withCauses offline backlog }) }

/-- R176: HOLD CHANGED "may name one cause or both": the notices that `after` has and `before` had not also name those of the
standing causes that `causes` selects (log entry 9). -/
def State.nameCauses (before after : State) (causes : BitVec 5) : State :=
  after.withPorts (Vector.ofFn fun p : PortId =>
    (after.port p).nameCauses (before.port p).queue.length
      (Vector.ofFn fun i : Fin 4 => after.fh.offline[i] && causes.getLsbD i.val) (after.fh.backlog && causes.getLsbD 4))

/-- R49: the arrivals of one advance. Where they set two or more hold causes and so make HOLD ACTIVE, any of them may be set
first, and HOLD CHANGED names that one or others with it (R174, R176; log entry 9). -/
def State.arrivals (s : State) : State :=
  let t := s.inspectThenCount 0
  if s.fh.hold = false ∧ 2 ≤ newCauses s.fh t.fh then
    let c := s.chooseOrder
    let first := Config.freePoint s.fresh
    s.nameCauses (if c.1 then c.2.inspectThenCount first else c.2.countThenInspect first) (Config.freeCauses s.fresh)
  else t

/-- R8: the pitch count increments. -/
def State.countPitch (s : State) : State := s.withPu { s.pu with pitch := s.pu.pitch + 1 }

/-- R8, R48: a pitch advance: the switch test, the birth, the arrivals, the arming. -/
def State.pitchAdvance (s : State) : State :=
  s.countPitch.advanceFiring.clearSeen.switchTest.birth.arrivals.armAll

/-! ### TRACK CLEAR (R64, R65, R90, R142) -/

/-- R64: the clear's effects, as one event. R142 orders PACK's notices; that the notices of the CLEAR close (HOLD CHANGED where
it sets BACKLOG) precede RUN ENDED at a LINE port too is the model's choice (log entry 11). -/
def State.trackCleared (s : State) : State :=
  let s1 := s.clearBatch.completeEnding
  let s2 := (s1.withTl { s1.tl with ring := [], pulls := 0, splice := 0 }).clearSeen.clearFiring.setForce false
  s2.withPu { s2.pu with backlash := false }

end Sys2Proof.Machine
end

