-- ==== Sys2Proof/Machine/Trim.lean ====
section
/-! DEFINITION. The Trim Regulator (05): measurements, requests, hysteresis, the tick, steps. -/

namespace Sys2Proof.Machine

/-- The class of a measurement (R94). -/
inductive Deposit where
  | absent
  | thin
  | inBand
  | heavy
  deriving DecidableEq, Repr

/-- R94: the class of a deposit index by the thresholds of the group. -/
def TrimConfig.classify (c : TrimConfig) (m : Nat) : Deposit :=
  if m ≤ c.noise then .absent else if m < c.low then .thin else if m ≤ c.high then .inBand else .heavy

/-- R97: a request joins the count of its direction, saturating at 8, or starts a new count. -/
def TrimGroup.countRequest (g : TrimGroup) (d : StepDir) : TrimGroup :=
  if g.request = some d then { g with count := min 8 (g.count + 1) } else { g with request := some d, count := 1 }

/-- R98: how many agreeing requests a step in direction `d` needs. -/
def TrimGroup.needed (g : TrimGroup) (d : StepDir) : Nat :=
  match g.lastStep with
  | none => 1
  | some l => if l = d then 1 else g.config.hysteresis + 1

/-- R99: the tick has passed at a pitch count. -/
def TrimGroup.tickPassed (g : TrimGroup) (pitch : Word32) : Bool := decide (g.config.tick ≤ (pitch - g.lastPitch).toNat)

/-- R100: whether a step follows a request in direction `d` that has been counted. -/
def TrimGroup.steps (g : TrimGroup) (d : StepDir) (pitch : Word32) : Bool :=
  decide (g.needed d ≤ g.count) && g.tickPassed pitch

/-- The result of a step before its clamp. -/
def TrimGroup.rawStep (g : TrimGroup) (d : StepDir) : Int :=
  match d with
  | .up => (g.t : Int) + g.config.upStep
  | .down => (g.t : Int) - g.config.downStep

/-- A value clamped into Tmin to Tmax. -/
def TrimConfig.clampT (c : TrimConfig) (v : Int) : Nat := (clampInt c.tmin c.tmax v).toNat

/-- R100: the group after a step in direction `d`. -/
def TrimGroup.stepped (g : TrimGroup) (d : StepDir) (pitch : Word32) : TrimGroup :=
  { g with t := g.config.clampT (g.rawStep d), lastStep := some d, lastPitch := pitch, count := 0 }

/-- R101: the limit that a step is clamped onto, true for HIGH, none when no TRIM LIMIT is due. -/
def TrimGroup.limitReached (g : TrimGroup) (d : StepDir) : Option Bool :=
  if (g.config.tmax : Int) < g.rawStep d ∧ g.t ≠ g.config.tmax then some true
  else if g.rawStep d < g.config.tmin ∧ g.t ≠ g.config.tmin then some false
  else none

/-- R100, R101: a step of a group, with its notice and, where T changes, the recomputation in the Firing Unit. -/
def State.stepTrim (s : State) (i : Fin 3) (d : StepDir) (m : Nat) : State :=
  let g := s.group i
  let g1 := g.stepped d s.pu.pitch
  let s1 := s.setGroup i g1
  let s2 :=
    match g.limitReached d with
    | some high => s1.notify (toRole .line) (.trimLimit i high g1.t d m)
    | none => s1
  if g1.t = g.t then s2 else s2.takeTrim i

/-- R97 to R100: a request in direction `d`. -/
def State.requestTrim (s : State) (i : Fin 3) (d : StepDir) (m : Nat) : State :=
  let g := (s.group i).countRequest d
  let s1 := s.setGroup i g
  if g.steps d s.pu.pitch then s1.stepTrim i d m else s1

/-- R96: whether a measurement of a record moves regulation: in AUTO, for a record without RAMP. -/
def State.regulates (s : State) (i : Fin 3) (seq : Word32) : Bool :=
  (s.group i).config.mode == .auto &&
  match s.recordOf seq with
  | some r => !hasCode r.defects Code.ramp
  | none => true

/-- R93 to R97: a measurement of a group from the record of a seq. -/
def State.measure (s : State) (i : Fin 3) (seq : Word32) (m : Nat) : State :=
  match (s.group i).config.classify m with
  | .absent => s.modifyRecord seq (fun r => r.addDefect Code.gumAbsent)
  | .thin => if s.regulates i seq then s.requestTrim i .up m else s
  | .inBand => if s.regulates i seq then s.setGroup i { s.group i with count := 0 } else s
  | .heavy => if s.regulates i seq then s.requestTrim i .down m else s

/-- R103: a changed configuration; T clamped into the new range, requests forgotten. -/
def State.installTrim (s : State) (i : Fin 3) (c : TrimConfig) : State :=
  let g := s.group i
  let t := c.clampT g.t
  let s1 := s.setGroup i { g with config := c, t := t, request := none, count := 0 }
  if t = g.t then s1 else s1.takeTrim i

/-- R104: SET TRIM. -/
def State.assignTrim (s : State) (i : Fin 3) (value : Nat) : State :=
  let g := s.group i
  let t := g.config.clampT value
  let s1 := s.setGroup i { g with
    t := t, lastStep := none, request := none, count := 0, lastPitch := s.pu.pitch }
  if t = g.t then s1 else s1.takeTrim i

end Sys2Proof.Machine
end

