-- ==== Sys2Proof/Machine/Jobs.lean ====
section
/-! DEFINITION. The commands of the Recipe Store, Changeover Control, the Tracking Line, the Fault and Hold Logic, the
Inspection Unit, the Box Queue and the Count Unit: their owners and their rows. -/

namespace Sys2Proof.Machine

/-! ### Recipe Store: owners -/

/-- PUT SEGMENTS (R34). -/
def ownPutSegments (first count : Nat) (segs : List (Nat × Nat)) : Owner := fun s => s.putSegments first count segs

/-- PUT PROFILE (R36). -/
def ownPutProfile (profile first count : Nat) (tag : Option (Vector Byte 8)) : Owner :=
  fun s => s.putProfile profile first count tag

/-- PUT RECIPE (R38). -/
def ownPutRecipe (slot content : Nat) (recipe : Option RecipeFields) : Owner :=
  fun s => s.putRecipe slot content recipe

/-! ### Changeover Control: owners -/

/-- R156, row 4: the slot is EMPTY; the slot NONE never is. -/
def State.emptySlot (s : State) (slot : Option SlotId) : Bool :=
  match slot with
  | some j => (s.recipe j).isNone
  | none => false

/-- NEXT JOB (R156, in its order). -/
def ownNextJob (slot mode : Nat) (n : Option Nat) : Owner := fun s =>
  match slotOf slot, jobModeOf mode n with
  | some j, some m =>
    if s.cc.armed.isSome = true then (s, .refuse .armed)
    else if s.cc.transition.isSome = true then (s, .refuse .pending)
    else if s.emptySlot j = true then (s, .refuse .emptySlot)
    else (s.withCc { s.cc.disarmed with armed := some ⟨j, m⟩ }, .done)
  | _, _ => (s, .refuse .range)

/-- CANCEL JOB (R164). -/
def ownCancelJob : Owner := fun s =>
  match s.cc.armed with
  | some _ => (s.withCc s.cc.disarmed, .okWith (byte2 s.cc.births))
  | none => (s, .refuse .notArmed)

/-! ### Tracking Line: owners -/

/-- SPLICE (R60). -/
def ownSplice (n : Nat) : Owner := fun s =>
  if n < 1 ∨ 64 < n then (s, .refuse .range) else (s.withTl { s.tl with splice := n }, .done)

/-- TRACK CLEAR (R64, in its order). The payload is the number of records that leave the ring. -/
def ownTrackClear : Owner := fun s =>
  if s.pu.lineState ≠ .stopped then (s, .refuse .state)
  else if boxLimit ≤ s.occupancy ∧ s.cu.batch.good ≠ 0 then (s, .refuse .full)
  else (s.trackCleared, .okWith (byte1 s.tl.ring.length))

/-- FORCE REJECT (R61). -/
def ownForceReject (seq : Nat) : Owner := fun s =>
  match s.resolve (BitVec.ofNat 32 seq) with
  | .newer => (s, .refuse .noRecord)
  | .gone => (s, .refuse .late)
  | .found pos r =>
    if r.fate = .undecided then (s.modifyAt pos (fun r => r.addDefect Code.forced), .done) else (s, .refuse .late)

/-- PULL SAMPLE (R62). -/
def ownPullSample (n : Nat) : Owner := fun s =>
  if n < 1 ∨ 255 < n then (s, .refuse .range)
  else
    let pulls := min 255 (s.tl.pulls + n)
    (s.withTl { s.tl with pulls := pulls }, .okWith (byte1 pulls))

/-! ### Fault and Hold Logic: owner -/

/-- FAULT CLEAR (R172). The payload is the latched faults and the raise counts before the command. -/
def ownFaultClear : Owner := fun s =>
  (s.clearFaults, .okWith (s.fh.faults.byte ++ byte1 s.fh.reverseOverrun.count ++ byte1 s.fh.indexSlip.count
    ++ byte1 s.fh.quadratureError.count))

/-! ### Inspection Unit: owners -/

/-- R114: the answer that turns a verdict away, for a record found; none where it is accepted. -/
def verdictRefusal (c : PointConfig) (pos : Nat) (status : PointStatus) : Option Status :=
  if status = .notRequired then some .notExpected
  else if pos < c.inspection then some .early
  else if status = .passed ∨ status = .failed then some .duplicate
  else if status = .timedOut ∨ c.deadline ≤ pos then some .late
  else none

/-- The status that a verdict gives. -/
def VerdictFields.newStatus (v : VerdictFields) : PointStatus := if v.fail then .failed else .passed

/-- R115, steps 1 to 3: what an accepted verdict writes into its record. -/
def Record.judged (r : Record) (v : VerdictFields) : Record :=
  let r1 := r.setStatus v.point v.newStatus
  let r2 := if v.fail then r1.addDefects (v.codes ++ [Code.visionFail]) else r1
  match v.m with
  | some m => { r2 with deposit := some m }
  | none => r2

/-- R115, step 3: M is handed to the trim group that the point feeds, ONLINE or OFFLINE (R122; log entry 29). -/
def State.handMeasurement (s : State) (v : VerdictFields) : State :=
  match v.m, (s.point v.point).config.trim with
  | some m, some g => s.measure g v.seq m
  | _, _ => s

/-- R115: an accepted verdict, in the order of its steps. -/
def State.acceptVerdict (s : State) (v : VerdictFields) (pos : Nat) : State :=
  let s1 := (s.modifyAt pos (fun r => r.judged v)).handMeasurement v
  s1.setPoint v.point { s1.point v.point with timeouts := 0 }

/-- VERDICT from a port (R113 to R115). The point state is not asked: an OFFLINE point's verdicts for records that are still
OPEN are judged as an ONLINE one's (R122), by the model's reading of R106 (log entry 29). -/
def ownVerdict (p : PortId) (point seq result m : Nat) (codes : List Nat) : Owner := fun s =>
  match verdictOf point seq result m codes with
  | none => (s, .refuse .range)
  | some v =>
    let u := s.point v.point
    if u.config.port ≠ p then (s, .refuse .role)
    else if u.config.enable = false then (s, .refuse .state)
    else
      match s.resolve v.seq with
      | .newer => (s, .refuse .noRecord)
      | .gone => (s, .refuse .late)
      | .found pos r =>
        match verdictRefusal u.config pos r.status[v.point] with
        | some st => (s, .refuse st)
        | none => (s.acceptVerdict v pos, .okWith (byte1 pos ++ byte1 v.newStatus.code))

/-- POINT RESUME from a port (R123, in its order). -/
def ownPointResume (p : PortId) (point : Nat) : Owner := fun s =>
  match finOf 4 point with
  | none => (s, .refuse .range)
  | some i =>
    let u := s.point i
    if (s.port p).role = .inspect ∧ u.config.port ≠ p then (s, .refuse .role)
    else if u.config.enable = false then (s, .refuse .state)
    else if u.offline = false then (s, .done)
    else ((s.setPoint i { u with offline := false, timeouts := 0 }).setOffline i false, .done)

/-! ### Box Queue and Count Unit: owners -/

/-- BOX TAKE (R149): the oldest entry leaves, and the backlog is tested. -/
def ownBoxTake : Owner := fun s =>
  match s.bq.entries with
  | e :: rest =>
    let s1 := s.withBq { s.bq with entries := rest }
    (s1.testBacklog, .okWith (boxPayload e rest.length))
  | [] => (s, .refuse .empty)

/-- CLOSE BATCH (R137, in its order). -/
def ownCloseBatch : Owner := fun s =>
  if s.cu.forcePending then (s, .refuse .pending)
  else if heldBackAt ≤ s.occupancy then (s, .refuse .full)
  else (s.setForce true, .okWith (word s.cu.batch.number ++ word s.cu.batch.good))

/-! ### Rows -/

def execPutSegments (p : PortId) (first count : Nat) (segs : List (Nat × Nat)) (s : State) :
    Host.Outcome State Fault Refusal :=
  .next (s.takeCommand p (.putSegments p first count segs) (ownPutSegments first count segs))

def execPutProfile (p : PortId) (profile first count : Nat) (tag : Option (Vector Byte 8)) (s : State) :
    Host.Outcome State Fault Refusal :=
  .next (s.takeCommand p (.putProfile p profile first count tag) (ownPutProfile profile first count tag))

def execPutRecipe (p : PortId) (slot content : Nat) (recipe : Option RecipeFields) (s : State) :
    Host.Outcome State Fault Refusal :=
  .next (s.takeCommand p (.putRecipe p slot content recipe) (ownPutRecipe slot content recipe))

def execNextJob (p : PortId) (slot mode : Nat) (n : Option Nat) (s : State) : Host.Outcome State Fault Refusal :=
  .next (s.takeCommand p (.nextJob p slot mode n) (ownNextJob slot mode n))

def execCancelJob (p : PortId) (s : State) : Host.Outcome State Fault Refusal :=
  .next (s.takeCommand p (.cancelJob p) ownCancelJob)

def execSplice (p : PortId) (n : Nat) (s : State) : Host.Outcome State Fault Refusal :=
  .next (s.takeCommand p (.splice p n) (ownSplice n))

def execTrackClear (p : PortId) (s : State) : Host.Outcome State Fault Refusal :=
  .next (s.takeCommand p (.trackClear p) ownTrackClear)

def execFaultClear (p : PortId) (s : State) : Host.Outcome State Fault Refusal :=
  .next (s.takeCommand p (.faultClear p) ownFaultClear)

def execForceReject (p : PortId) (seq : Nat) (s : State) : Host.Outcome State Fault Refusal :=
  .next (s.takeCommand p (.forceReject p seq) (ownForceReject seq))

def execPullSample (p : PortId) (n : Nat) (s : State) : Host.Outcome State Fault Refusal :=
  .next (s.takeCommand p (.pullSample p n) (ownPullSample n))

def execVerdict (p : PortId) (point seq result m : Nat) (codes : List Nat) (s : State) :
    Host.Outcome State Fault Refusal :=
  .next (s.takeCommand p (.verdict p point seq result m codes) (ownVerdict p point seq result m codes))

def execPointResume (p : PortId) (point : Nat) (s : State) : Host.Outcome State Fault Refusal :=
  .next (s.takeCommand p (.pointResume p point) (ownPointResume p point))

def execBoxTake (p : PortId) (s : State) : Host.Outcome State Fault Refusal :=
  .next (s.takeCommand p (.boxTake p) ownBoxTake)

def execCloseBatch (p : PortId) (s : State) : Host.Outcome State Fault Refusal :=
  .next (s.takeCommand p (.closeBatch p) ownCloseBatch)

end Sys2Proof.Machine
end

