-- ==== Sys2Proof/Machine/Position.lean ====
section
/-! DEFINITION. The Position Unit (01): the encoder filters, counts and wraps, the index check, the internal drive, the speed
gates, the line state, and the effects of SOURCE and LINE CONFIG. -/

namespace Sys2Proof.Machine

/-! ### Line state (R17, R19) -/

/-- R19, R82, R83, R89: a change of line state, with its notice and what the Firing Unit does at it. -/
def State.setLineState (s : State) (new : LineState) : State :=
  let old := s.pu.lineState
  if new = old then s
  else
    let s1 := (s.withPu { s.pu with lineState := new }).notify (toRole .line) (.lineState new old s.pu.speed)
    let s2 := if old = .stopped then s1.endTests else s1
    if new = .reverse then s2.forceOffAll else if old = .run then s2.forceOffRunOnly else s2

/-- R17: the line leaves STOPPED at once, and the quiet gate count is set to 0. -/
def State.leaveStopped (s : State) (new : LineState) : State :=
  if s.pu.lineState = .stopped then (s.withPu { s.pu with quiet := 0 }).setLineState new else s

/-! ### Angle and wraps (R5 to R8) -/

/-- R5: the angle of an edge count. -/
def angleOf (e cpc : Nat) : Nat := e * 4096 / cpc

def State.setAngle (s : State) (a : Nat) : State := s.withPu { s.pu with angle := a }
def State.setE (s : State) (e : Nat) : State := s.withPu { s.pu with e := e }
def State.setBacklash (s : State) (b : Bool) : State := s.withPu { s.pu with backlash := b }

/-- R5: the angle moves forward within a cycle; the points after the old angle up to the new one are passed with b = 0. -/
def State.forwardTo (s : State) (new : Nat) : State :=
  let old := s.pu.angle
  let s1 := s.setAngle new
  if s.pu.backlash = false ∧ old < new then (s1.passForward old new 0).endPulses else s1

/-- R6, R8, R13: a forward wrap to an angle of the new cycle. With b = 0 the rest of the ending cycle is passed, the pitch
advance is made, and the points of the new cycle are passed; with b = 1 the wrap clears b (log entry 13). The omissions of the new
cycle's points and of the late expiries come after the advance's fate decision, by the model's choice (log entry 31). -/
def State.forwardWrap (s : State) (new : Nat) : State :=
  if s.pu.backlash then
    (((s.setBacklash false).setAngle new).passForward 0 new 0).endPulses
  else
    let s1 := if s.pu.angle < 4095 then s.passForward s.pu.angle 4095 (1 + new) else s
    (((s1.setAngle new).pitchAdvance.expireLate).passForward 0 new 0).endPulses

/-- R5: a forward count moves e. -/
def State.countForward (s : State) : State :=
  if s.config.cpc ≤ s.pu.e + 1 then (s.setE 0).forwardWrap 0
  else (s.setE (s.pu.e + 1)).forwardTo (angleOf (s.pu.e + 1) s.config.cpc)

/-- R7: what a reverse wrap does with b. -/
def State.reverseWrap (s : State) : State :=
  if s.pu.backlash then s.raiseFault .reverseOverrun 0 else s.setBacklash true

/-- R5, R7: a reverse count moves e, with no point passed. -/
def State.countReverse (s : State) : State :=
  if s.pu.e = 0 then
    ((s.setE (s.config.cpc - 1)).setAngle (angleOf (s.config.cpc - 1) s.config.cpc)).reverseWrap
  else (s.setE (s.pu.e - 1)).setAngle (angleOf (s.pu.e - 1) s.config.cpc)

/-- R2, R5, R17: a count sets the count direction, adds to the interval count, leaves STOPPED (log entry 10) and moves e. -/
def State.count (s : State) (d : Direction) : State :=
  match d with
  | .forward =>
    ((s.withPu { s.pu with dir := .forward, interval := s.pu.interval + 1 }).leaveStopped .crawl).countForward
  | .reverse =>
    ((s.withPu { s.pu with dir := .reverse, interval := s.pu.interval - 1 }).leaveStopped .reverse).countReverse

/-! ### Index check (R9, R10) -/

/-- R9: the index error. -/
def indexError (e cpc : Nat) : Int := if 2 * e ≤ cpc then (e : Int) else (e : Int) - cpc

/-- R9: whether an error is outside the tolerance. -/
def outside (error : Int) (tolerance : Nat) : Bool := decide ((tolerance : Int) < error.natAbs)

/-- R9: an index edge is checked with the check enabled, the source ENCODER and the count direction FORWARD. -/
def State.indexChecked (s : State) : Bool :=
  s.config.indexEnable && s.config.source == .encoder && s.pu.dir == .forward

/-- R9: the correction of e. -/
def State.correctIndex (s : State) : State :=
  if s.pu.e = 0 then s
  else if 2 * s.pu.e ≤ s.config.cpc then (s.setE 0).setAngle 0
  else (s.setE 0).forwardWrap 0

/-- R9: an index edge: the state corrected, and the error where it is an INDEX SLIP. -/
def State.indexEdge (s : State) : State × Option Int :=
  if s.indexChecked then
    let error := indexError s.pu.e s.config.cpc
    (s.correctIndex, if outside error s.config.indexTolerance then some error else none)
  else (s, none)

/-! ### The filters (R1) -/

/-- R1: the stability time 2^n × 100 ns, in samples of 25 ns, and the sample it ends at (log entry 3). -/
def stableSamples (filter : Nat) : Nat := 4 * 2 ^ filter + 1

/-- R1: the hold of a level that differs from the accepted one, before a run of equal samples. -/
def InputFilter.holdFor (f : InputFilter) (level : Bool) (filter : Nat) : Hold :=
  match f.holding with
  | some h => if h.level = level then h else ⟨level, 0, filter⟩
  | none => ⟨level, 0, filter⟩

/-- R1: a run of `n` samples at one level: the hold after it, and the sample of the run at which the level is accepted. A run
of 0 samples changes nothing (log entry 2). -/
def InputFilter.run (f : InputFilter) (level : Bool) (n filter : Nat) : Option Hold × Option Nat :=
  if n = 0 then (f.holding, none)
  else if f.accepted = some level then (none, none)
  else
    let h := f.holdFor level filter
    let need := stableSamples h.filter
    if need ≤ h.samples + n then (none, some (need - h.samples)) else (some { h with samples := h.samples + n }, none)

/-- The accepted level after an acceptance, if there is one. -/
def InputFilter.take (f : InputFilter) (level : Option Bool) : InputFilter :=
  match level with
  | some v => { f with accepted := some v }
  | none => f

/-- R1: a change of an established level; the first acceptance is not one. -/
def changed (old : Option Bool) (new : Option Bool) : Bool := old.isSome && new.isSome && old != new

/-- R9: a rising change of an established level. -/
def rises (old : Option Bool) (new : Option Bool) : Bool := old == some false && new == some true

/-! ### Decoding (R2 to R4) -/

/-- R2: the table of a quadrature mode, for the pair before and after one change. -/
def decodeQuadrature (mode : CountMode) (a b a' b' : Bool) : Option Direction :=
  match mode with
  | .x1 =>
    if b then none
    else if !a && a' then some .forward
    else if a && !a' then some .reverse
    else none
  | .x2 =>
    if a = a' then none
    else if a' != b then some .forward
    else some .reverse
  | .x4 =>
    match a, b, a', b' with
    | false, false, true, false => some .forward
    | true, false, true, true => some .forward
    | true, true, false, true => some .forward
    | false, true, false, false => some .forward
    | true, false, false, false => some .reverse
    | true, true, true, false => some .reverse
    | false, true, true, true => some .reverse
    | false, false, false, true => some .reverse
    | _, _, _, _ => none
  | .pulseDir => none

/-- R3: the direction of a PULSE-DIR count; free where ENC_B has no accepted level yet (log entry 8). -/
def State.pulseDirection (s : State) : Direction × State :=
  match s.pu.encB.accepted with
  | some b => (if b then .reverse else .forward, s)
  | none => (if Config.freeDirection s.fresh then .forward else .reverse, s.withFresh (s.fresh + 1))

/-- R2, R3: the count that the accepted levels of one sample make, from the levels before it. -/
def State.decodeCount (s : State) (oldA oldB : Option Bool) : State :=
  match s.config.countMode with
  | .pulseDir =>
    if rises oldA s.pu.encA.accepted then
      let d := s.pulseDirection
      d.2.count d.1
    else s
  | mode =>
    match oldA, oldB, s.pu.encA.accepted, s.pu.encB.accepted with
    | some a, some b, some a', some b' =>
      if a != a' && b != b' then s
      else
        match decodeQuadrature mode a b a' b' with
        | some d => s.count d
        | none => s
    | _, _, _, _ => s

/-- R4: ENC_A and ENC_B both change at one accepted sample, in X1, X2 or X4. -/
def State.quadratureFault (s : State) (oldA oldB : Option Bool) : Bool :=
  s.config.countMode != .pulseDir && changed oldA s.pu.encA.accepted && changed oldB s.pu.encB.accepted

/-- R4, R9, R169: the faults of one sample, after its count and its correction; either of two may be raised first (log
entry 9). -/
def State.raiseSampleFaults (s : State) (slip : Option Int) (quadrature : Bool) : State :=
  match slip, quadrature with
  | some error, true =>
    let c := s.chooseOrder
    if c.1 then (c.2.raiseFault .indexSlip error).raiseFault .quadratureError 0
    else (c.2.raiseFault .quadratureError 0).raiseFault .indexSlip error
  | some error, false => s.raiseFault .indexSlip error
  | none, true => s.raiseFault .quadratureError 0
  | none, false => s

/-- R1 to R10: the levels accepted at one sample, and what they make. Under INTERNAL they only become the accepted levels. -/
def State.acceptLevels (s : State) (a b z : Option Bool) : State :=
  let oldA := s.pu.encA.accepted
  let oldB := s.pu.encB.accepted
  let oldZ := s.pu.encZ.accepted
  let s1 := s.withPu { s.pu with encA := s.pu.encA.take a, encB := s.pu.encB.take b, encZ := s.pu.encZ.take z }
  if s.config.source = .internal then s1
  else
    let s2 := s1.decodeCount oldA oldB
    let r := if rises oldZ s1.pu.encZ.accepted then s2.indexEdge else (s2, none)
    r.1.raiseSampleFaults r.2 (s1.quadratureFault oldA oldB)

/-- A time put into an ascending list, once. -/
def insertTime (t : Nat) : List Nat → List Nat
  | [] => [t]
  | u :: rest => if t < u then t :: u :: rest else if t = u then u :: rest else u :: insertTime t rest

/-- The sample times of the acceptances, ascending. -/
def acceptTimes (ts : List (Option Nat)) : List Nat :=
  ts.foldl (fun l t =>
    match t with
    | some n => insertTime n l
    | none => l) []

/-- The level accepted at a time. -/
def acceptedAt (t : Nat) (at_ : Option Nat) (level : Bool) : Option Bool := if at_ = some t then some level else none

/-- R1: a run of samples at which the three encoder inputs show given levels. -/
def State.encoderRun (s : State) (r : SampleRun) : State :=
  let f := s.config.filter
  let a := s.pu.encA.run r.a r.samples f
  let b := s.pu.encB.run r.b r.samples f
  let z := s.pu.encZ.run r.z r.samples f
  let s1 := s.withPu { s.pu with
    encA := { s.pu.encA with holding := a.1 }
    encB := { s.pu.encB with holding := b.1 }
    encZ := { s.pu.encZ with holding := z.1 } }
  (acceptTimes [a.2, b.2, z.2]).foldl (fun s t =>
    s.acceptLevels (acceptedAt t a.2 r.a) (acceptedAt t b.2 r.b) (acceptedAt t z.2 r.z)) s1

/-! ### The internal drive (R11 to R13) -/

/-- The accumulator's range: 4,096 points with 16 fraction bits. -/
def accumulatorSize : Nat := 268435456

/-- R12: the increment Q of a drive speed, in 65,536ths of a point. -/
def increment (sd : Nat) : Nat := roundDiv (sd * 4096 * 65536) 6000000

/-- R11: the drive speed after a ramp. -/
def rampSpeed (sd target ramp : Nat) : Nat :=
  if sd < target then min (sd + ramp) target else if target < sd then max (sd - ramp) target else sd

/-- R12, R13: the accumulator after an addition gives the angle, by a wrap where it carries past 4095. -/
def State.addIncrement (s : State) : State :=
  let acc := s.pu.acc + increment s.pu.sd
  let s1 := s.withPu { s.pu with dir := .forward, acc := acc % accumulatorSize }
  if accumulatorSize ≤ acc then s1.forwardWrap (acc % accumulatorSize / 65536) else s1.forwardTo (acc / 65536)

/-- R12, R13, R17: one addition of the internal drive; with the source ENCODER none is made (log entry 28). -/
def State.addition (s : State) : State :=
  match s.config.source with
  | .encoder => s
  | .internal => (if 0 < s.pu.sd then s.leaveStopped .crawl else s).addIncrement

/-- What moves the angle in a row that names its stimulus. -/
def State.stimulate (s : State) : Stimulus → State
  | .encoder r => s.encoderRun r
  | .addition => s.addition

/-! ### Speed gates (R14 to R18) -/

def GateHistory.push (h : GateHistory) (n : Int) : GateHistory := ⟨h.g1, h.g2, h.g3, n⟩
def GateHistory.sum4 (h : GateHistory) : Int := h.g0 + h.g1 + h.g2 + h.g3

/-- The greatest speed. -/
def speedLimit : Nat := 2400

/-- R14: the unsaturated speed. -/
def unsaturatedSpeed (sum4 : Int) (cpc : Nat) : Nat := roundDiv (sum4.natAbs * 1500) cpc

/-- R14: the sign of sum4. -/
def directionOf (sum4 : Int) : Direction := if sum4 < 0 then .reverse else .forward

/-- R14, R16: the gate's speed with the source ENCODER. -/
def State.gateEncoder (s : State) : State :=
  let gates := s.pu.gates.push s.pu.interval
  let sum4 := gates.sum4
  let v := unsaturatedSpeed sum4 s.config.cpc
  let above := decide (speedLimit < v)
  let s1 := s.withPu { s.pu with
    gates := gates, interval := 0, speed := min v speedLimit, speedDir := directionOf sum4, saturated := above }
  if above && !s.pu.saturated then s1.notify (toRole .line) (.overspeed sum4 (directionOf sum4)) else s1

/-- R11, R15: the gate's speed with the source INTERNAL. -/
def State.gateInternal (s : State) : State :=
  let sd := rampSpeed s.pu.sd s.pu.target s.pu.ramp
  s.withPu { s.pu with sd := sd, speed := sd, speedDir := .forward }

/-- R18: whether the interval that the gate ends had no net motion. -/
def State.quietInterval (s : State) : Bool :=
  match s.config.source with
  | .encoder => s.pu.interval == 0
  | .internal => s.pu.sd == 0

/-- R18: the quiet gate count after a gate. -/
def quietAfter (quiet : Nat) (isQuiet : Bool) : Nat := if isQuiet then min 200 (quiet + 1) else 0

/-- R18: the line state after a gate, by the ordered tests. -/
def lineStateAfter (c : LineConfig) (state : LineState) (quiet : Nat) (sum4 : Int) (speed : Nat) : LineState :=
  if c.stopTime ≤ quiet then .stopped
  else if (state = .crawl ∨ state = .run) ∧ sum4 < 0 then .reverse
  else if state = .reverse ∧ 0 < sum4 then .crawl
  else if state = .crawl ∧ c.runThreshold ≤ speed then .run
  else if state = .run ∧ (speed : Int) < (c.runThreshold : Int) - c.runHysteresis then .crawl
  else state

/-- R18: the quiet gates and the line state at a gate, outside STOPPED. -/
def State.gateLineState (s : State) (isQuiet : Bool) : State :=
  if s.pu.lineState = .stopped then s
  else
    let quiet := quietAfter s.pu.quiet isQuiet
    (s.withPu { s.pu with quiet := quiet }).setLineState
      (lineStateAfter s.config s.pu.lineState quiet s.pu.gates.sum4 s.pu.speed)

/-- R14 to R18, R80: one speed gate: S, then the line state, then the Firing Unit. -/
def State.gate (s : State) : State :=
  let s1 := match s.config.source with
    | .encoder => s.gateEncoder
    | .internal => s.gateInternal
  (s1.gateLineState s.quietInterval).takeSpeed

/-! ### SOURCE and LINE CONFIG (R20 to R23) -/

/-- R20, R23: the gate history and the interval count set to zero, the overspeed state CLEAR. -/
def PU.clearGates (p : PU) : PU := { p with gates := .zero, interval := 0, speedDir := .forward, saturated := false }

/-- R20: the Position Unit after a change of source, with the speed not yet handed on. -/
def PU.changeSource (p : PU) (src : Source) : PU :=
  let q := { p.clearGates with speed := 0, sd := 0, target := 0, dir := .forward, config := { p.config with source := src } }
  match src with
  | .internal => { q with acc := p.angle * 65536 }
  | .encoder =>
    let e := p.angle * p.config.cpc / 4096
    { q with e := e, angle := angleOf e p.config.cpc }

/-- R23: the Position Unit after a new LINE CONFIG, before a change of source: e, the angle and the speed for a new CPC or
count mode. The source field keeps its old value until `PU.changeSource`. -/
def PU.changeConfig (p : PU) (c : LineConfig) : PU :=
  let q := { p with config := { c with source := p.config.source } }
  if c.cpc = p.config.cpc ∧ c.countMode = p.config.countMode then q
  else
    let e := p.angle * c.cpc / 4096
    match p.config.source with
    | .encoder => { q.clearGates with e := e, angle := angleOf e c.cpc, speed := 0 }
    | .internal => { q.clearGates with e := e }

/-- R23: whether LINE CONFIG sets S to 0. -/
def PU.zeroesSpeed (p : PU) (c : LineConfig) : Bool :=
  c.source != p.config.source
    || (p.config.source == .encoder && (c.cpc != p.config.cpc || c.countMode != p.config.countMode))

/-- R23: the effects of an accepted LINE CONFIG. No rule orders their notices: TIMING LIMIT by output number, where S becomes
0, then those of the backlog comparison is the model's choice (log entry 11). -/
def State.installConfig (s : State) (c : LineConfig) : State :=
  if c = s.config then s
  else
    let p := s.pu.changeConfig c
    let q := if c.source = s.config.source then p else p.changeSource c.source
    let s1 := s.withPu q
    (if s.pu.zeroesSpeed c then s1.takeSpeed else s1).testBacklog

/-- R22, step 2: the new geometry leaves every enabled probe, output and point within its limits. -/
def State.geometryFits (s : State) (c : LineConfig) : Bool :=
  allProbes.all (fun i => let u := (s.probe i).config; !u.enable || decide (u.position + 1 ≤ c.lineLength))
    && allOutputs.all (fun o => let u := (s.output o).config; !u.enable || stationAllowed c u.gating u.station)
    && allPoints.all (fun i => let u := (s.point i).config; !u.enable || decide (u.deadline + 1 ≤ c.gate))

/-- R22, step 4: P, the gate position or the count position differs. -/
def LineConfig.sameGeometry (c d : LineConfig) : Bool :=
  c.lineLength == d.lineLength && c.gate == d.gate && c.count == d.count

end Sys2Proof.Machine
end

