-- ==== Sys2Proof/Machine/Motion.lean ====
section
/-! DEFINITION. The rows of the encoder, the internal drive and the time base. A row that names what a run of samples brings
about is that run of samples, whatever it brings about (log entry 2). -/

namespace Sys2Proof.Machine

/-- ENCODER_COUNT (R5). -/
def execEncoderCount (r : SampleRun) (s : State) : Host.Outcome State Fault Refusal := .next (s.encoderRun r)

/-- QUADRATURE_ERROR (R4). -/
def execQuadratureError (r : SampleRun) (s : State) : Host.Outcome State Fault Refusal := .next (s.encoderRun r)

/-- INDEX_EDGE (R9). -/
def execIndexEdge (r : SampleRun) (s : State) : Host.Outcome State Fault Refusal := .next (s.encoderRun r)

/-- ACCEPTED_LEVEL_CHANGE (R1). -/
def execAcceptedLevelChange (r : SampleRun) (s : State) : Host.Outcome State Fault Refusal := .next (s.encoderRun r)

/-- INTERNAL_ADDITION (R12). -/
def execInternalAddition (s : State) : Host.Outcome State Fault Refusal := .next s.addition

/-- SPEED_GATE (R14). -/
def execSpeedGate (s : State) : Host.Outcome State Fault Refusal := .next s.gate

/-- QUIET_GATE_STOP (R18): the speed gate at which the quiet gates reach the stop time (log entry 5). -/
def execQuietGateStop (s : State) : Host.Outcome State Fault Refusal := .next s.gate

/-- SWITCH (R160): the stimulus at whose pitch advance the switch is taken (log entry 5). -/
def execSwitch (via : Stimulus) (s : State) : Host.Outcome State Fault Refusal := .next (s.stimulate via)

/-- FORCED_CLOSE (R132): the stimulus whose pitch advance brings the count arrival (log entry 5). -/
def execForcedClose (via : Stimulus) (s : State) : Host.Outcome State Fault Refusal := .next (s.stimulate via)

/-- PROBE_SAMPLE (R52). -/
def execProbeSample (levels : Vector Bool 6) (s : State) : Host.Outcome State Fault Refusal :=
  .next (s.sampleProbes levels)

/-- The time remaining of an output's test pulse, 0 with none. -/
def State.testLeft (s : State) (o : OutId) : Nat := (s.output o).test.getD 0

/-- TEST_PULSE_END (R89): the time base runs until the output's time remaining reaches 0 (log entry 4). -/
def execTestPulseEnd (o : OutId) (s : State) : Host.Outcome State Fault Refusal := .next (s.elapse (s.testLeft o))

/-- One microsecond of the time base, on an empty queue (log entry 4). -/
def State.tick (s : State) : State := s.elapse 1

end Sys2Proof.Machine
end

