-- ==== Sys2Proof/Machine/Resets.lean ====
section
/-! DEFINITION. The rows POWER_ON and RESET_PIN. -/

namespace Sys2Proof.Machine

/-- POWER_ON (R24): every block at its power-on values, the roles read from the straps, RESTART on every port. -/
def execPowerOn (pins : ResetPins) (s : State) : Host.Outcome State Fault Refusal :=
  .next (.afterReset .powerOn pins s.fresh s.pending)

/-- RESET_PIN (R188): as after power-on, with the other cause. -/
def execResetPin (pins : ResetPins) (s : State) : Host.Outcome State Fault Refusal :=
  .next (.afterReset .resetPin pins s.fresh s.pending)

end Sys2Proof.Machine
end

