-- ==== Sys2Proof/Machine/Settings.lean ====
section
/-! DEFINITION. The commands that configure the line, the drive, the probes, the outputs, the trim groups and the inspection
points, and SET TRIM and TEST PULSE: their owners and their rows. -/

namespace Sys2Proof.Machine

/-! ### Owners -/

/-- The commands that are accepted in STOPPED alone read this (R19). -/
def State.stopped (s : State) : Bool := s.pu.lineState == .stopped

/-- LINE CONFIG (R22, in its order; R23). -/
def ownLineConfig (f : LineFields) : Owner := fun s =>
  match LineConfig.ofFields f with
  | none => (s, .refuse .range)
  | some c =>
    if s.geometryFits c = false then (s, .refuse .range)
    else if s.stopped = false then (s, .refuse .state)
    else if c.sameGeometry s.config = false ∧ s.tl.ring ≠ [] then (s, .refuse .inUse)
    else (s.installConfig c, .done)

/-- SOURCE (R20; the order of RANGE and STATE is log entry 17). -/
def ownSource (source : Nat) : Owner := fun s =>
  match sourceOf source with
  | none => (s, .refuse .range)
  | some src =>
    if s.stopped = false then (s, .refuse .state)
    else if src = s.config.source then (s, .done)
    else ((s.withPu (s.pu.changeSource src)).takeSpeed, .done)

/-- DRIVE (R21; that RANGE comes before STATE is log entry 17, the model's choice). -/
def ownDrive (target ramp : Nat) : Owner := fun s =>
  if speedLimit < target ∨ ramp < 1 ∨ 200 < ramp then (s, .refuse .range)
  else if s.config.source = .encoder then (s, .refuse .state)
  else (s.withPu { s.pu with target := target, ramp := ramp }, .done)

/-- PROBE CONFIG (R51). -/
def ownProbeConfig (f : ProbeFields) : Owner := fun s =>
  match ProbeConfig.ofFields s.config.lineLength f with
  | none => (s, .refuse .range)
  | some (i, c) => (s.setProbe i { s.probe i with config := c, seenBad := false, badRun := 0 }, .done)

/-- OUTPUT CONFIG (R86, in its order; R87). -/
def ownOutputConfig (f : OutputFields) : Owner := fun s =>
  match OutputConfig.ofFields f with
  | none => (s, .refuse .range)
  | some (o, c) =>
    if c.enable = true ∧ stationAllowed s.config c.gating c.station = false then (s, .refuse .range)
    else if s.stopped = false then (s, .refuse .state)
    else if c = (s.output o).config then (s, .done)
    else (s.installOutput o c, .done)

/-- The payload of TRIM CONFIG and SET TRIM: T as it stands after the command (R102, R104). -/
def State.trimPayload (s : State) (g : Fin 3) : List Byte := byte1 (s.group g).t

/-- TRIM CONFIG (R102, R103). -/
def ownTrimConfig (f : TrimFields) : Owner := fun s =>
  match TrimConfig.ofFields f with
  | none => (s, .refuse .range)
  | some (g, c) =>
    let s1 := if c = (s.group g).config then s else s.installTrim g c
    (s1, .okWith (s1.trimPayload g))

/-- R108, step 2: the tests of an enabled point. -/
def State.pointAllowed (s : State) (c : PointConfig) : Bool :=
  !c.enable || (decide (c.deadline + 1 ≤ s.config.gate) && (s.port c.port).role == .inspect)

/-- POINT CONFIG (R108, in its order; R109). -/
def ownPointConfig (f : PointFields) : Owner := fun s =>
  match PointConfig.ofFields f with
  | none => (s, .refuse .range)
  | some (i, c) =>
    if s.pointAllowed c = false then (s, .refuse .range)
    else if s.tl.ring ≠ [] then (s, .refuse .inUse)
    else if c = (s.point i).config then (s, .done)
    else ((s.setPoint i ⟨c, false, 0⟩).setOffline i false, .done)

/-- SET TRIM (R104). -/
def ownSetTrim (group value : Nat) : Owner := fun s =>
  match finOf 3 group with
  | none => (s, .refuse .range)
  | some g =>
    if value < 32 ∨ 255 < value then (s, .refuse .range)
    else
      let s1 := s.assignTrim g value
      (s1, .okWith (s1.trimPayload g))

/-- TEST PULSE (R88, in its order): the duration in ms, counted down in microseconds. -/
def ownTestPulse (output duration : Nat) : Owner := fun s =>
  match finOf 16 output with
  | none => (s, .refuse .range)
  | some o =>
    if duration < 1 ∨ 1000 < duration then (s, .refuse .range)
    else if s.stopped = false then (s, .refuse .state)
    else if (s.output o).config.enable = false then (s, .refuse .state)
    else if (s.output o).test.isSome = true then (s, .refuse .pending)
    else (s.setOutput o { s.output o with test := some (duration * 1000) }, .done)

/-! ### Rows -/

def execLineConfig (p : PortId) (f : LineFields) (s : State) : Host.Outcome State Fault Refusal :=
  .next (s.takeCommand p (.lineConfig p f) (ownLineConfig f))

def execSource (p : PortId) (src : Nat) (s : State) : Host.Outcome State Fault Refusal :=
  .next (s.takeCommand p (.source p src) (ownSource src))

def execDrive (p : PortId) (target ramp : Nat) (s : State) : Host.Outcome State Fault Refusal :=
  .next (s.takeCommand p (.drive p target ramp) (ownDrive target ramp))

def execProbeConfig (p : PortId) (f : ProbeFields) (s : State) : Host.Outcome State Fault Refusal :=
  .next (s.takeCommand p (.probeConfig p f) (ownProbeConfig f))

def execOutputConfig (p : PortId) (f : OutputFields) (s : State) : Host.Outcome State Fault Refusal :=
  .next (s.takeCommand p (.outputConfig p f) (ownOutputConfig f))

def execTrimConfig (p : PortId) (f : TrimFields) (s : State) : Host.Outcome State Fault Refusal :=
  .next (s.takeCommand p (.trimConfig p f) (ownTrimConfig f))

def execPointConfig (p : PortId) (f : PointFields) (s : State) : Host.Outcome State Fault Refusal :=
  .next (s.takeCommand p (.pointConfig p f) (ownPointConfig f))

def execSetTrim (p : PortId) (group value : Nat) (s : State) : Host.Outcome State Fault Refusal :=
  .next (s.takeCommand p (.setTrim p group value) (ownSetTrim group value))

def execTestPulse (p : PortId) (output duration : Nat) (s : State) : Host.Outcome State Fault Refusal :=
  .next (s.takeCommand p (.testPulse p output duration) (ownTestPulse output duration))

end Sys2Proof.Machine
end

