-- ==== Sys2Proof/Machine/Transfers.lean ====
section
/-! DEFINITION. The rows of the port transfers: a transfer is one operation, and what it does is the port's state's to say
(log entry 20). -/

namespace Sys2Proof.Machine

/-- FRAME_RECEIVED (R179). -/
def execFrameReceived (p : PortId) (bytes : List Byte) (s : State) : Host.Outcome State Fault Refusal :=
  .next (s.transfer p bytes)

/-- OVERLAP_TRANSFER (R180). -/
def execOverlapTransfer (p : PortId) (bytes : List Byte) (s : State) : Host.Outcome State Fault Refusal :=
  .next (s.transfer p bytes)

/-- RESPONSE_MADE (R181). -/
def execResponseMade (made : ResponsePort) (s : State) : Host.Outcome State Fault Refusal :=
  .next (s.setPort made.port ((s.port made.port).respond made.selHeld))

/-- RESPONSE_READ (R181). -/
def execResponseRead (p : PortId) (bytes : List Byte) (s : State) : Host.Outcome State Fault Refusal :=
  .next (s.transfer p bytes)

end Sys2Proof.Machine
end

