-- ==== Sys2Proof/Machine/Dispatch.lean ====
section
/-! DEFINITION. What each command does: one arm for each row of the opcode table, one meaning for each arm. -/

namespace Sys2Proof.Machine

/-- The effect of a command on everything but the queue. -/
def exec (i : Instr) (s : State) : Host.Outcome State Fault Refusal :=
  match i with
  | .powerOn pins => Sys2Proof.Machine.execPowerOn pins s
  | .resetPin pins => Sys2Proof.Machine.execResetPin pins s
  | .encoderCount run => Sys2Proof.Machine.execEncoderCount run s
  | .quadratureError run => Sys2Proof.Machine.execQuadratureError run s
  | .indexEdge run => Sys2Proof.Machine.execIndexEdge run s
  | .internalAddition => Sys2Proof.Machine.execInternalAddition s
  | .speedGate => Sys2Proof.Machine.execSpeedGate s
  | .quietGateStop => Sys2Proof.Machine.execQuietGateStop s
  | .probeSample levels => Sys2Proof.Machine.execProbeSample levels s
  | .switch via => Sys2Proof.Machine.execSwitch via s
  | .forcedClose via => Sys2Proof.Machine.execForcedClose via s
  | .testPulseEnd output => Sys2Proof.Machine.execTestPulseEnd output s
  | .frameReceived port bytes => Sys2Proof.Machine.execFrameReceived port bytes s
  | .overlapTransfer port bytes => Sys2Proof.Machine.execOverlapTransfer port bytes s
  | .responseMade made => Sys2Proof.Machine.execResponseMade made s
  | .responseRead port bytes => Sys2Proof.Machine.execResponseRead port bytes s
  | .readStatus port => Sys2Proof.Machine.execReadStatus port s
  | .readConfig port part => Sys2Proof.Machine.execReadConfig port part s
  | .readRecord port keyBy key => Sys2Proof.Machine.execReadRecord port keyBy key s
  | .readSegments port first count => Sys2Proof.Machine.execReadSegments port first count s
  | .readProfile port profile => Sys2Proof.Machine.execReadProfile port profile s
  | .readRecipe port slot => Sys2Proof.Machine.execReadRecipe port slot s
  | .readBatch port => Sys2Proof.Machine.execReadBatch port s
  | .boxPeek port => Sys2Proof.Machine.execBoxPeek port s
  | .noticeTake port => Sys2Proof.Machine.execNoticeTake port s
  | .lineConfig port fields => Sys2Proof.Machine.execLineConfig port fields s
  | .source port src => Sys2Proof.Machine.execSource port src s
  | .drive port target ramp => Sys2Proof.Machine.execDrive port target ramp s
  | .probeConfig port fields => Sys2Proof.Machine.execProbeConfig port fields s
  | .outputConfig port fields => Sys2Proof.Machine.execOutputConfig port fields s
  | .trimConfig port fields => Sys2Proof.Machine.execTrimConfig port fields s
  | .pointConfig port fields => Sys2Proof.Machine.execPointConfig port fields s
  | .putSegments port first count segs => Sys2Proof.Machine.execPutSegments port first count segs s
  | .putProfile port profile first count tag => Sys2Proof.Machine.execPutProfile port profile first count tag s
  | .putRecipe port slot content recipe => Sys2Proof.Machine.execPutRecipe port slot content recipe s
  | .nextJob port slot mode n => Sys2Proof.Machine.execNextJob port slot mode n s
  | .cancelJob port => Sys2Proof.Machine.execCancelJob port s
  | .splice port n => Sys2Proof.Machine.execSplice port n s
  | .trackClear port => Sys2Proof.Machine.execTrackClear port s
  | .faultClear port => Sys2Proof.Machine.execFaultClear port s
  | .forceReject port seq => Sys2Proof.Machine.execForceReject port seq s
  | .pullSample port n => Sys2Proof.Machine.execPullSample port n s
  | .verdict port point seq result m codes => Sys2Proof.Machine.execVerdict port point seq result m codes s
  | .pointResume port point => Sys2Proof.Machine.execPointResume port point s
  | .setTrim port group value => Sys2Proof.Machine.execSetTrim port group value s
  | .testPulse port output duration => Sys2Proof.Machine.execTestPulse port output duration s
  | .boxTake port => Sys2Proof.Machine.execBoxTake port s
  | .closeBatch port => Sys2Proof.Machine.execCloseBatch port s
  | .acceptedLevelChange run => Sys2Proof.Machine.execAcceptedLevelChange run s

end Sys2Proof.Machine
end

