-- ==== Sys2Proof/Machine/Step.lean ====
section
/-! DEFINITION. One step of the part: the command at the front of the queue; on an empty queue, one microsecond. -/

namespace Sys2Proof.Machine

/-- The part takes the command at the front of its queue and carries it out on the rest (log entry 23). With nothing
waiting, one microsecond of the time base passes (log entry 4). -/
def step (s : State) : Host.Outcome State Fault Refusal :=
  match s.pending with
  | c :: rest => exec c (s.withPending rest)
  | [] => .next s.tick

/-- The state with the command that a word spells put at the front of its queue; a word that spells none changes
nothing. -/
def State.withFetchWord (s : State) (nbits w : Nat) : State :=
  match decodeTableWord nbits w with
  | some c => s.withPending (c :: s.pending)
  | none => s

end Sys2Proof.Machine
end

