-- ==== Sys2Proof/Safety.lean ====
section
/-! DEFINITION. The terms that claims are stated in: when a port hears a command, what a frame is bad for, what a stimulus
brings about, and the invariants of the blocks, each the law that a chapter of the manual states. -/

namespace Sys2Proof

/-- A byte of a list, as a number. -/
def byteAt (l : List Byte) (i : Nat) : Nat := (l.getD i 0).toNat

/-- The payload lengths of the table of R182. -/
def Command.lengthAllowed (k : Command) (l : List Byte) : Prop :=
  match k with
  | .readStatus | .readBatch | .boxPeek | .noticeTake | .cancelJob | .trackClear | .faultClear | .boxTake | .closeBatch =>
    l.length = 0
  | .readConfig | .readProfile | .readRecipe | .source | .splice | .pullSample | .pointResume => l.length = 1
  | .readSegments | .setTrim => l.length = 2
  | .drive | .testPulse => l.length = 3
  | .forceReject => l.length = 4
  | .readRecord => l.length = 5
  | .pointConfig => l.length = 8
  | .probeConfig | .trimConfig => l.length = 11
  | .outputConfig => l.length = 12
  | .lineConfig => l.length = 15
  | .putSegments => 2 ≤ l.length ∧ l.length = 2 + 4 * byteAt l 1
  | .putProfile => l.length = 3 ∨ l.length = 11
  | .putRecipe => l.length = 2 ∨ l.length = 33
  | .nextJob => l.length = 2 ∨ l.length = 4
  | .verdict => 8 ≤ l.length ∧ l.length = 8 + byteAt l 7

/-- The pins of a port among those of the four. -/
def ResetPins.port (pins : ResetPins) (p : PortId) : PortPins :=
  match p with
  | 0 => pins.p0
  | 1 => pins.p1
  | 2 => pins.p2
  | 3 => pins.p3

end Sys2Proof

namespace Sys2Proof.Machine

/-! ### Ports -/

/-- The state after the frame of a command has been clocked in on a port that was IDLE: the part has sent as many 0x00. -/
def State.clocked (s : State) (p : PortId) (c : Instr) : State :=
  s.setPort p { s.port p with sent := zeros c.frame.length }

/-- The command `c` of port `p` reaches its owner, which takes it in state `t`: it is in flight already, or its frame is
clocked in on the IDLE port and passes the checks (R179, R182). -/
def State.reaches (s : State) (p : PortId) (c : Instr) (t : State) : Prop :=
  (s.port p).ignoring = false ∧ ∃ k, c.command? = some (p, k) ∧
    (((s.port p).transfer = .inFlight c ∧ t = s)
      ∨ ((s.port p).transfer = .idle ∧ openTo k (s.port p).role = true ∧ c.payload.length ≤ payloadLimit
        ∧ lengthFits c = true ∧ t = s.clocked p c))

/-- The port is WORKING: it has a command in flight or an owner's answer to make a response of. -/
def Port.working (q : Port) : Prop := (∃ c, q.transfer = .inFlight c) ∨ (∃ a, q.transfer = .answered a)

/-- R179, check 1: fewer than three bytes, a length byte above 60, fewer bytes than the length byte calls for, or an 8-bit sum
of the frame that is not 0. -/
def frameBad (l : List Byte) : Prop :=
  l.length < 3 ∨ 60 < byteAt l 1 ∨ l.length < byteAt l 1 + 3 ∨ sumBytes (l.take (byteAt l 1 + 3)) ≠ 0

/-- `n` bytes of a payload from an offset. -/
def field (l : List Byte) (offset n : Nat) : List Byte := (l.drop offset).take n

/-- Only what `PortGrow` allows happens to a port's queue when notices are made: roles, transfers and the rest stay, the queue
grows at its newest end and stays within its 32 places (R186). -/
def PortGrow (q r : Port) : Prop :=
  r.role = q.role ∧ r.transfer = q.transfer ∧ r.overlap = q.overlap ∧ r.ignoring = q.ignoring ∧ r.sent = q.sent
    ∧ (∃ l, r.queue = q.queue ++ l) ∧ (q.queue.length ≤ queueLimit → r.queue.length ≤ queueLimit)
    ∧ (q.overflow = true → r.overflow = true)

/-! ### Stimuli -/

/-- The three inputs stand at accepted levels with nothing held (R1). -/
def PU.settled (u : PU) (a b z : Bool) : Prop :=
  u.encA = ⟨some a, none⟩ ∧ u.encB = ⟨some b, none⟩ ∧ u.encZ = ⟨some z, none⟩

/-- A run of samples long enough for the FILTER in force to accept its levels (R1). -/
def State.accepts (s : State) (r : SampleRun) : Prop := stableSamples s.config.filter ≤ r.samples

/-- The rows of the tables of R2 and R3: a count in a direction, for the levels A, B before and A', B' after one accepted
sample. -/
def countRow (mode : CountMode) (a b a' b' : Bool) (d : Direction) : Prop :=
  match mode, d with
  | .x1, .forward => a = false ∧ a' = true ∧ b = false ∧ b' = false
  | .x1, .reverse => a = true ∧ a' = false ∧ b = false ∧ b' = false
  | .x2, .forward => (a = false ∧ a' = true ∧ b = false ∧ b' = false) ∨ (a = true ∧ a' = false ∧ b = true ∧ b' = true)
  | .x2, .reverse => (a = false ∧ a' = true ∧ b = true ∧ b' = true) ∨ (a = true ∧ a' = false ∧ b = false ∧ b' = false)
  | .x4, .forward =>
    (a, b, a', b') ∈ [(false, false, true, false), (true, false, true, true), (true, true, false, true),
      (false, true, false, false)]
  | .x4, .reverse =>
    (a, b, a', b') ∈ [(true, false, false, false), (true, true, true, false), (false, true, true, true),
      (false, false, false, true)]
  | .pulseDir, .forward => a = false ∧ a' = true ∧ b' = false
  | .pulseDir, .reverse => a = false ∧ a' = true ∧ b' = true

/-- The Position Unit with the levels of a run as its accepted levels, nothing held (R1). -/
def PU.levels (u : PU) (r : SampleRun) : PU :=
  { u with encA := ⟨some r.a, none⟩, encB := ⟨some r.b, none⟩, encZ := ⟨some r.z, none⟩ }

/-- A run of samples that makes one count in a direction, with the source ENCODER and no index edge. -/
def State.makesCount (s : State) (r : SampleRun) (d : Direction) : Prop :=
  s.config.source = .encoder ∧ s.accepts r
    ∧ ∃ a b, s.pu.settled a b r.z ∧ countRow s.config.countMode a b r.a r.b d

/-- The Position Unit after the accepted levels and the count of a run, before e moves: the count direction, the interval
count and the leaving of STOPPED (R2, R17). -/
def PU.counted (u : PU) (r : SampleRun) (d : Direction) : PU :=
  { u.levels r with
    dir := d
    interval := match d with
      | .forward => u.interval + 1
      | .reverse => u.interval - 1
    quiet := if u.lineState = .stopped then 0 else u.quiet
    lineState :=
      if u.lineState = .stopped then
        match d with
        | .forward => .crawl
        | .reverse => .reverse
      else u.lineState }

/-- A stimulus at which a pitch advance is made: a forward wrap with b = 0 (R6, R13). -/
def State.advances (s : State) : Stimulus → Prop
  | .encoder r => s.makesCount r .forward ∧ s.pu.backlash = false ∧ s.config.cpc ≤ s.pu.e + 1
  | .addition =>
    s.config.source = .internal ∧ s.pu.backlash = false ∧ accumulatorSize ≤ s.pu.acc + increment s.pu.sd

/-- The records of the ring by the fields that their birth gives and nothing changes (R46): seq, run, slot, birth pitch. -/
def State.births (s : State) : List (Word32 × Option Word32 × Option SlotId × Word32) :=
  s.tl.ring.map fun r => (r.seq, r.run, r.slot, r.birthPitch)

/-- A record without the fields that marks change: defects, presence and point statuses. -/
def Record.unmarked (r : Record) : Record :=
  { r with void := false, defects := 0, status := Vector.replicate 4 .notRequired }

/-- What motion without a pitch advance, and the commands of the Firing Unit and the Trim Regulator, leave as it stands in the
blocks of records, jobs, inspection, counting and holding; of the ports, anything but the notices made. -/
structure State.standsIn (s t : State) : Prop where
  rs : t.rs = s.rs
  iu : t.iu = s.iu
  cu : t.cu = s.cu
  bq : t.bq = s.bq
  fh : t.fh = s.fh
  tl : t.tl = { s.tl with ring := t.tl.ring, probes := t.tl.probes }
  records : t.tl.ring.map Record.unmarked = s.tl.ring.map Record.unmarked
  defects : ∀ (i : Nat) (r q : Record), s.tl.ring[i]? = some r → t.tl.ring[i]? = some q →
    ∀ c, hasCode r.defects c = true → hasCode q.defects c = true
  cc : t.cc = { s.cc with births := t.cc.births, lastCounted := t.cc.lastCounted }
  fresh : t.fresh = s.fresh
  pending : t.pending = s.pending
  ports : ∀ p, PortGrow (s.port p) (t.port p)

/-! ### Liveness (R30, R31) -/

/-- R30: the slot is that of the current run, of the armed job or of a record in the ring. -/
def State.liveSlot (s : State) (j : SlotId) : Prop :=
  (∃ c, s.cc.current = some c ∧ c.slot = j) ∨ (∃ a, s.cc.armed = some a ∧ a.slot = some j)
    ∨ ∃ r ∈ s.tl.ring, r.slot = some j

/-- R31: the output map of a live slot names the profile. -/
def State.liveProfile (s : State) (p : ProfileId) : Prop :=
  ∃ (j : SlotId) (r : Recipe) (o : OutId), s.liveSlot j ∧ s.recipe j = some r ∧ r.outputMap[o] = some p

/-- R31: the segment lies in the range of a live profile. -/
def State.liveSegment (s : State) (i : Nat) : Prop :=
  ∃ p : ProfileId, s.liveProfile p ∧ (s.rs.profiles[p]).first ≤ i ∧ i < (s.rs.profiles[p]).first + (s.rs.profiles[p]).count

/-! ### The laws of the blocks -/

/-- The ranges of LINE CONFIG (01 section 1.9.3, R22). -/
def LineConfig.good (c : LineConfig) : Prop := LineFields.inRange c.fields = true

/-- The ranges of the Position Unit's state (01 section 1.1); under INTERNAL the angle is the integer part of the
accumulator (R12). -/
def State.positionLaw (s : State) : Prop :=
  s.config.good ∧ s.pu.angle < 4096 ∧ s.pu.e < s.config.cpc ∧ s.pu.speed ≤ speedLimit ∧ s.pu.sd ≤ speedLimit
    ∧ s.pu.target ≤ speedLimit ∧ 1 ≤ s.pu.ramp ∧ s.pu.ramp ≤ 200 ∧ s.pu.quiet ≤ 200 ∧ s.pu.acc < accumulatorSize
    ∧ (s.config.source = .internal → s.pu.angle = s.pu.acc / 65536)

/-- R44: at most P records, with sequence numbers consecutive and increasing toward the knife, the newest the last one
issued. -/
def State.ringLaw (s : State) : Prop :=
  s.config.good ∧ s.tl.ring.length ≤ s.config.lineLength ∧ (s.tl.ring ≠ [] → s.tl.born = true)
    ∧ ∀ i r, s.tl.ring[i]? = some r → r.seq = s.tl.nextSeq - 1 - BitVec.ofNat 32 i

/-- R155, R160: Changeover Control and the Tracking Line hold the same current run and the same ending run, and the newest
record belongs to the current run. -/
def State.runLaw (s : State) : Prop :=
  s.cc.current = s.tl.current.map (fun r => ⟨r.number, r.slot⟩)
    ∧ s.cc.transition.map (fun t => (t.run, some t.lastSeq)) = s.tl.ending.map (fun r => (r.number, r.lastSeq))
    ∧ ∀ r, s.tl.ring.head? = some r → r.run = s.cc.current.map CurrentRun.number

/-- R30: every slot that the current run, the armed job or a record names holds a recipe. -/
def State.liveLaw (s : State) : Prop :=
  (∀ c, s.cc.current = some c → (s.recipe c.slot).isSome = true)
    ∧ (∀ j, s.cc.armed.bind ArmedJob.slot = some j → (s.recipe j).isSome = true)
    ∧ ∀ r ∈ s.tl.ring, ∀ j, r.slot = some j → (s.recipe j).isSome = true

/-- R26: every defined profile lies within the pool with strictly ascending on-angles. -/
def State.storeLaw (s : State) : Prop :=
  ∀ p : ProfileId, (s.rs.profiles[p]).count ≤ 8 ∧ (s.rs.profiles[p]).first + (s.rs.profiles[p]).count ≤ 256
    ∧ (s.rs.profiles[p]).ordered s.rs.segments = true

/-- R92: every trim value lies within its group's Tmin to Tmax, and these within 32 to 255. -/
def State.trimLaw (s : State) : Prop :=
  ∀ g : Fin 3, 32 ≤ (s.group g).config.tmin ∧ (s.group g).config.tmin ≤ (s.group g).t
    ∧ (s.group g).t ≤ (s.group g).config.tmax ∧ (s.group g).config.tmax ≤ 255

/-- R73: every advance lies within 0 to 2,048, and a disabled output has none and does nothing (R67). -/
def OutputUnit.law (u : OutputUnit) : Prop :=
  u.aOn ≤ advanceLimit ∧ u.aOff ≤ advanceLimit
    ∧ (u.config.enable = false → u.aOn = 0 ∧ u.aOff = 0 ∧ u.clamped = false ∧ u.armed = [] ∧ u.pulses = [] ∧ u.test = none)
    ∧ ∀ q ∈ u.armed, 1 ≤ q.expiry - q.on ∧ q.expiry - q.on ≤ 4095

def State.firingLaw (s : State) : Prop := ∀ o : OutId, (s.output o).law

/-- R126, R145, R146: batch numbers in the queue are consecutive and end before the open batch's; at most 16 entries, and at
most 15 while a transition is pending. A record still upstream of the count position that is marked last of run belongs to
the pending transition, there is at most one, and no job is armed meanwhile (R156, R160). -/
def State.boxLaw (s : State) : Prop :=
  s.occupancy ≤ boxLimit
    ∧ (∀ i e, s.bq.entries[i]? = some e → e.number = s.cu.nextBatch - BitVec.ofNat 32 (s.occupancy - i))
    ∧ s.cu.batch.number = s.cu.nextBatch
    ∧ (s.cc.transition.isSome = true → s.occupancy < boxLimit ∧ s.cc.armed = none)
    ∧ (∀ i j r q, i < s.config.count → j < s.config.count → s.tl.ring[i]? = some r → s.tl.ring[j]? = some q →
        r.lastOfRun = true → q.lastOfRun = true → i = j)
    ∧ (∀ i r, i < s.config.count → s.tl.ring[i]? = some r → r.lastOfRun = true → s.cc.transition.isSome = true)

/-- R174: HOLD follows the causes, and the causes follow their owners. -/
def State.holdLaw (s : State) : Prop :=
  s.fh.hold = s.fh.anyCause ∧ (∀ i : Fin 4, s.fh.offline[i] = (s.point i).offline) ∧ s.fh.backlog = s.bq.standing
    ∧ s.bq.standing = decide (s.config.backlog ≤ s.occupancy)

/-- R169: a raise count runs from 1 to 255 while its fault is latched, and is 0 otherwise. -/
def FaultLatch.law (l : FaultLatch) : Prop := if l.latched then 1 ≤ l.count ∧ l.count ≤ 255 else l.count = 0

def State.faultLaw (s : State) : Prop := ∀ f : TrackFault, (s.fh.latch f).law

/-- R186: no notice queue holds more than 32 notices. -/
def State.noticeLaw (s : State) : Prop := ∀ p : PortId, (s.port p).queue.length ≤ queueLimit

/-- R26: the on-angles of a profile's segments are strictly ascending in a pool. -/
def Profile.strictlyAscends (p : Profile) (pool : Vector Segment 256) : Prop :=
  ∀ (i : Nat) (a b : Segment), i + 1 < p.count → pool[p.first + i]? = some a → pool[p.first + i + 1]? = some b →
    a.theta < b.theta

/-- Whether a profile's range contains a segment of the run of `count` segments from `first`. -/
def Profile.touches (p : Profile) (first count : Nat) : Prop :=
  ∃ i, first ≤ i ∧ i < first + count ∧ p.first ≤ i ∧ i < p.first + p.count

/-! ### The values after reset -/

/-- The values that R24, R43, R66, R91, R106, R125, R143, R154, R168 and R177 give after power-on and after the RESET pin. -/
def State.hasResetValues (v : State) : Prop :=
  v.pu = ⟨⟨none, none⟩, ⟨none, none⟩, ⟨none, none⟩, 0, 0, false, .forward, 0, ⟨0, 0, 0, 0⟩, 0, 0, .forward, false, 0,
      .stopped, 0, 0, 0, 50, ⟨16, 12, 14, 4096, .x4, 3, false, 8, 10, 600, 30, .encoder, 12⟩⟩
    ∧ (∀ i : Fin 256, v.rs.segments[i] = ⟨0, 1⟩) ∧ (∀ p : ProfileId, v.rs.profiles[p] = ⟨0, 0, none⟩)
    ∧ (∀ j : SlotId, v.recipe j = none)
    ∧ v.tl.ring = [] ∧ v.tl.nextSeq = 0 ∧ v.tl.born = false ∧ v.tl.current = none ∧ v.tl.ending = none ∧ v.tl.nextRun = 1
    ∧ v.tl.splice = 0 ∧ v.tl.pulls = 0
    ∧ (∀ i : Fin 6, v.probe i = ⟨⟨false, 0, 0, 1, true, 0, .defect 15⟩, false, none, 0⟩)
    ∧ (∀ o : OutId, v.output o = ⟨⟨false, true, 1, .present, 0, 0, none, false, none⟩, 0, 0, false, [], [], none⟩)
    ∧ (∀ g : Fin 3, v.group g = ⟨⟨.manual, 32, 255, 2, 2, 1, 10, 8, 40, 90⟩, 128, none, none, 0, 0⟩)
    ∧ (∀ i : Fin 4, v.point i = ⟨⟨false, 1, 2, 0, .reject, none, 8⟩, false, 0⟩)
    ∧ v.cu = ⟨⟨1, none, 0, 0, 0, 0, false⟩, 1, false⟩ ∧ v.bq = ⟨[], false⟩ ∧ v.cc = ⟨none, none, 0, none, false, none⟩
    ∧ v.fh = ⟨⟨false, 0⟩, ⟨false, 0⟩, ⟨false, 0⟩, #v[false, false, false, false], false, false⟩

end Sys2Proof.Machine
end

