-- ==== Sys2Proof/WellFormed.lean ====
section
/-! DEFINITION. Which commands a frame or the outside can carry at all: every payload field fits the bytes that R182
gives it, the lists have the lengths that their payload can have, and a run of encoder samples has a sample in it. Whether
a value is in RANGE is not asked here: that is the owner's judgement, and an answer. -/

namespace Sys2Proof

/-- The value fits `n` payload bytes. -/
def fitsBytes (n v : Nat) : Bool := v < 256 ^ n

/-- Every value of the list fits one payload byte. -/
def allByte (l : List Nat) : Bool := l.all (fitsBytes 1)

def LineFields.wellFormed (f : LineFields) : Bool :=
  allByte [f.lineLength, f.gate, f.count, f.countMode, f.filter, f.indexEnable, f.indexTolerance, f.stopTime,
    f.runHysteresis, f.source, f.backlog] && fitsBytes 2 f.cpc && fitsBytes 2 f.runThreshold

def ProbeFields.wellFormed (f : ProbeFields) : Bool :=
  allByte [f.probe, f.enable, f.position, f.badLevel, f.stableTime, f.kind, f.code] && fitsBytes 2 f.onAngle
    && fitsBytes 2 f.offAngle

def OutputFields.wellFormed (f : OutputFields) : Bool :=
  allByte [f.output, f.enable, f.polarity, f.station, f.gating, f.trimGroup, f.runOnly, f.omission]
    && fitsBytes 2 f.lon && fitsBytes 2 f.loff

def TrimFields.wellFormed (f : TrimFields) : Bool :=
  allByte [f.group, f.mode, f.tmin, f.tmax, f.upStep, f.downStep, f.hysteresis, f.tick, f.noise, f.low, f.high]

def PointFields.wellFormed (f : PointFields) : Bool :=
  allByte [f.point, f.enable, f.inspection, f.deadline, f.boundPort, f.policy, f.trimGroup, f.limit]

def RecipeFields.wellFormed (f : RecipeFields) : Bool :=
  fitsBytes 4 f.jobCode && allByte f.outputMap.toList && fitsBytes 2 f.rejectMask && fitsBytes 2 f.skipMask
    && fitsBytes 1 f.points && fitsBytes 2 f.batchSize && fitsBytes 2 f.minSpeed && fitsBytes 2 f.autoSample

/-- A run of encoder samples holds at least one sample. -/
def SampleRun.wellFormed (r : SampleRun) : Bool := 0 < r.samples

def Stimulus.wellFormed : Stimulus → Bool
  | .encoder r => r.wellFormed
  | .addition => true

/-- The command can be carried by a frame of the catalogue (R182), or given by the outside. -/
def Instr.wellFormed : Instr → Bool
  | .powerOn _ => true
  | .resetPin _ => true
  | .encoderCount r => r.wellFormed
  | .quadratureError r => r.wellFormed
  | .indexEdge r => r.wellFormed
  | .internalAddition => true
  | .speedGate => true
  | .quietGateStop => true
  | .probeSample _ => true
  | .switch via => via.wellFormed
  | .forcedClose via => via.wellFormed
  | .testPulseEnd _ => true
  | .frameReceived _ _ => true
  | .overlapTransfer _ _ => true
  | .responseMade _ => true
  | .responseRead _ _ => true
  | .readStatus _ => true
  | .readConfig _ part => fitsBytes 1 part
  | .readRecord _ by_ key => fitsBytes 1 by_ && fitsBytes 4 key
  | .readSegments _ first count => allByte [first, count]
  | .readProfile _ profile => fitsBytes 1 profile
  | .readRecipe _ slot => fitsBytes 1 slot
  | .readBatch _ => true
  | .boxPeek _ => true
  | .noticeTake _ => true
  | .lineConfig _ f => f.wellFormed
  | .source _ src => fitsBytes 1 src
  | .drive _ target ramp => fitsBytes 2 target && fitsBytes 1 ramp
  | .probeConfig _ f => f.wellFormed
  | .outputConfig _ f => f.wellFormed
  | .trimConfig _ f => f.wellFormed
  | .pointConfig _ f => f.wellFormed
  | .putSegments _ first count segs =>
    fitsBytes 1 first && decide (segs.length = count) && decide (count ≤ 14)
      && segs.all (fun g => fitsBytes 2 g.1 && fitsBytes 2 g.2)
  | .putProfile _ profile first count _ => allByte [profile, first, count]
  | .putRecipe _ slot content recipe => allByte [slot, content] && recipe.all RecipeFields.wellFormed
  | .nextJob _ slot mode n => allByte [slot, mode] && n.all (fitsBytes 2)
  | .cancelJob _ => true
  | .splice _ n => fitsBytes 1 n
  | .trackClear _ => true
  | .faultClear _ => true
  | .forceReject _ seq => fitsBytes 4 seq
  | .pullSample _ n => fitsBytes 1 n
  | .verdict _ point seq result m codes =>
    allByte [point, result, m] && fitsBytes 4 seq && allByte codes && decide (codes.length ≤ 52)
  | .pointResume _ point => fitsBytes 1 point
  | .setTrim _ group value => allByte [group, value]
  | .testPulse _ output duration => fitsBytes 1 output && fitsBytes 2 duration
  | .boxTake _ => true
  | .closeBatch _ => true
  | .acceptedLevelChange r => r.wellFormed

end Sys2Proof
end

