-- ==== Sys2Proof/Certificates/Slice0/Obligations.lean ====
section
/-! DEFINITION. The statements for the provers. Each names what it states; OBLIGATIONS.json gives its rules. A command of the
catalogue is stated from `State.reaches`: `t` is the state in which its owner takes it. -/

open Sys2Proof Sys2Proof.Machine

/-! ### The queue, the time base, reset -/

/-- A step takes the command at the front of the queue and carries it out on the rest. The queue and the step on its front
are the model's own choice (log entry 23); the manual says that each operation is whole and indivisible. -/
def Obligations.StepTakesTheFront : Prop :=
  ∀ (c : Instr) (rest : List Instr) (s : State), step (s.withPending (c :: rest)) = exec c (s.withPending rest)

/-- Every command is carried out, in every state, and leaves the commands that wait as they stand. The rows that name what a
run of encoder samples or an addition brings about are that stimulus, whatever it brings about, and QUIET_GATE_STOP is the speed
gate: the model's choice (log entries 2 and 5). -/
def Obligations.EveryCommandIsCarriedOut : Prop :=
  (∀ (c : Instr) (s : State), ∃ t, exec c s = .next t ∧ t.pending = s.pending)
  ∧ ∀ (r : SampleRun) (s : State),
    exec (.quadratureError r) s = exec (.encoderCount r) s ∧ exec (.indexEdge r) s = exec (.encoderCount r) s
      ∧ exec (.acceptedLevelChange r) s = exec (.encoderCount r) s
      ∧ exec (.switch (.encoder r)) s = exec (.encoderCount r) s
      ∧ exec (.forcedClose (.encoder r)) s = exec (.encoderCount r) s
      ∧ exec (.switch .addition) s = exec .internalAddition s ∧ exec (.forcedClose .addition) s = exec .internalAddition s
      ∧ exec .quietGateStop s = exec .speedGate s

/-- Power-on and the RESET pin complete in every state and leave the values that the chapters give. Each port has the role of
its straps, is IDLE with its flags clear, and holds one RESTART notice with the cause and the role. The queue and the model's
counter of free values stay (log entry 23). -/
def Obligations.ResetGivesPowerOnValues : Prop :=
  ∀ (pins : ResetPins) (s : State), ∃ t u : State, exec (.powerOn pins) s = .next t ∧ exec (.resetPin pins) s = .next u
    ∧ t.hasResetValues ∧ u.hasResetValues ∧ t.pending = s.pending ∧ u.pending = s.pending ∧ t.fresh = s.fresh
    ∧ u.fresh = s.fresh
    ∧ ∀ p : PortId, ∃ role : Role,
      ((pins.port p).role1 = false ∧ (pins.port p).role0 = false → role = .line)
      ∧ ((pins.port p).role1 = false ∧ (pins.port p).role0 = true → role = .inspect)
      ∧ ((pins.port p).role1 = true ∧ (pins.port p).role0 = false → role = .pack)
      ∧ ((pins.port p).role1 = true ∧ (pins.port p).role0 = true → role = .service)
      ∧ t.port p = ⟨role, .idle, false, false, [⟨0, .restart .powerOn role⟩], (pins.port p).selHeld, []⟩
      ∧ u.port p = ⟨role, .idle, false, false, [⟨0, .restart .resetPin role⟩], (pins.port p).selHeld, []⟩

/-- Every law of the blocks holds after a reset, with any pins. -/
def Obligations.LawsHoldAfterReset : Prop :=
  ∀ (cause : ResetCause) (pins : ResetPins) (n : Nat) (l : List Instr),
    let s := State.afterReset cause pins n l
    s.positionLaw ∧ s.ringLaw ∧ s.runLaw ∧ s.liveLaw ∧ s.storeLaw ∧ s.trimLaw ∧ s.firingLaw ∧ s.boxLaw ∧ s.holdLaw
      ∧ s.faultLaw ∧ s.noticeLaw

/-! ### Ports -/

/-- A transfer at an IDLE port is checked in the order of R179: no whole byte, FRAME, UNKNOWN, ROLE, RANGE for a length, and
otherwise the command that the bytes spell is in flight, no byte of its payload lost. -/
def Obligations.FrameIsCheckedInOrder : Prop :=
  ∀ (p : PortId) (bytes : List Byte) (s : State), (s.port p).transfer = .idle → (s.port p).ignoring = false →
    ∃ x, exec (.frameReceived p bytes) s = .next (s.setPort p { s.port p with transfer := x, sent := zeros bytes.length })
      ∧ (bytes = [] → x = .idle)
      ∧ (bytes ≠ [] → frameBad bytes → x = .answered (.refuse .frame))
      ∧ (¬frameBad bytes → (∀ k : Command, k.code ≠ byteAt bytes 0) → x = .answered (.refuse .unknown))
      ∧ ∀ k : Command, ¬frameBad bytes → k.code = byteAt bytes 0 →
        (openTo k (s.port p).role = false → x = .answered (.refuse .role))
          ∧ (openTo k (s.port p).role = true → ¬k.lengthAllowed (field bytes 2 (byteAt bytes 1)) →
            x = .answered (.refuse .range))
          ∧ (openTo k (s.port p).role = true → k.lengthAllowed (field bytes 2 (byteAt bytes 1)) →
            ∃ c : Instr, x = .inFlight c ∧ c.command? = some (p, k) ∧ c.payload = field bytes 2 (byteAt bytes 1))

/-- The frame of every well-formed command of the catalogue, received on an IDLE port of a role it is open to, puts exactly
that command in flight: decoding the encoding of a command gives the command, with every field. -/
def Obligations.CommandFramesComeBack : Prop :=
  ∀ (p : PortId) (k : Command) (c : Instr) (s : State), c.wellFormed = true → c.command? = some (p, k) →
    c.payload.length ≤ 60 → (s.port p).transfer = .idle → (s.port p).ignoring = false → openTo k (s.port p).role = true →
    exec (.frameReceived p c.frame) s =
      .next (s.setPort p { s.port p with transfer := .inFlight c, sent := zeros c.frame.length })

/-- The Roles column of the catalogue, and the answer ROLE to a command from a port of another role, which does not reach its
owner. -/
def Obligations.ForeignRolesAreRefused : Prop :=
  (∀ k : Command, openTo k .line = decide (k.code ∈ [0x01, 0x02, 0x03, 0x04, 0x05, 0x06, 0x07, 0x08, 0x09, 0x10, 0x11, 0x12,
      0x13, 0x14, 0x15, 0x16, 0x20, 0x21, 0x22, 0x30, 0x31, 0x32, 0x33, 0x34, 0x40, 0x41, 0x43, 0x44, 0x45, 0x51])
    ∧ openTo k .inspect = decide (k.code ∈ [0x01, 0x02, 0x03, 0x04, 0x05, 0x06, 0x07, 0x08, 0x09, 0x40, 0x41, 0x42, 0x43])
    ∧ openTo k .pack = decide (k.code ∈ [0x01, 0x02, 0x03, 0x04, 0x05, 0x06, 0x07, 0x08, 0x09, 0x50, 0x51])
    ∧ openTo k .service = decide (k.code ∈ [0x01, 0x02, 0x03, 0x04, 0x05, 0x06, 0x07, 0x08, 0x09, 0x45]))
  ∧ ∀ (p : PortId) (k : Command) (c : Instr) (s : State), c.command? = some (p, k) → c.payload.length ≤ 60 →
    (s.port p).transfer = .idle → (s.port p).ignoring = false → openTo k (s.port p).role = false →
    exec c s = .next ((s.clocked p c).answerPort p (.refuse .role))

/-- A transfer while the port is WORKING is discarded: the part sends 0x00 for each byte, the overlap flag is set at its
first whole byte, once for several, and the command in flight goes on unchanged; the flag is reported in bit 0 of the response
that follows, and cleared when that response is made. That FRAME_RECEIVED and RESPONSE_READ are such transfers here, as
OVERLAP_TRANSFER is, is the model's choice (log entry 20). -/
def Obligations.TransferWhileWorkingSetsOverlap : Prop :=
  ∀ (p : PortId) (bytes : List Byte) (s : State), (s.port p).ignoring = false → (s.port p).working →
    (∀ c ∈ [Instr.overlapTransfer p bytes, Instr.frameReceived p bytes, Instr.responseRead p bytes],
      exec c s = .next (s.setPort p
        { s.port p with overlap := (s.port p).overlap || !bytes.isEmpty, sent := zeros bytes.length }))
    ∧ ∀ a held, (s.port p).transfer = .answered a → ∃ t f, exec (.responseMade ⟨p, held⟩) s = .next t
      ∧ (t.port p).transfer = .answer f ∧ byteAt f 1 % 2 = (if (s.port p).overlap then 1 else 0)
      ∧ (t.port p).overlap = false

/-- The response is made of the owner's answer: status code, flags (overlap, notice overflow, ATN), length, payload and the
check byte that brings the sum to 0; the port enters ANSWER with RDY active and the overlap flag is cleared. RDY is active in
ANSWER alone, ATN while the notice queue is not empty. NOTICE TAKE's
answer reports the overflow flag as it stood when it was taken. A transfer whose select is held then goes on as one that is
ignored. Without an answer the row has no effect (log entry 28). -/
def Obligations.ResponseCarriesAnswerAndFlags : Prop :=
  ([Status.ok, .frame, .unknown, .role, .range, .state, .inUse, .emptySlot, .armed, .pending, .notArmed, .early, .late,
      .duplicate, .notExpected, .noRecord, .full, .empty].map Status.code = List.range 18)
  ∧ (∀ (p : PortId) (held : Bool) (a : Answer) (s : State), (s.port p).transfer = .answered a →
    ∃ f check, ∃ t : State, exec (.responseMade ⟨p, held⟩) s = .next t ∧ t = s.setPort p
        { s.port p with transfer := .answer f, overlap := false, ignoring := (s.port p).ignoring || held }
      ∧ (t.port p).rdy = true ∧ (t.port p).atn = (s.port p).atn
      ∧ ((byteAt f 1).testBit 2 = (s.port p).atn)
      ∧ f = [BitVec.ofNat 8 a.status.code,
          BitVec.ofNat 8 ((if (s.port p).overlap then 1 else 0) + (if a.overflow.getD (s.port p).overflow then 2 else 0)
            + (if (s.port p).queue = [] then 0 else 4)),
          BitVec.ofNat 8 a.payload.length] ++ a.payload ++ [check]
      ∧ sumBytes f = 0)
  ∧ (∀ (p : PortId) (held : Bool) (s : State), (∀ a, (s.port p).transfer ≠ .answered a) →
    exec (.responseMade ⟨p, held⟩) s = .next s)
  ∧ ∀ q : Port, (q.rdy = true ↔ ∃ f, q.transfer = .answer f) ∧ (q.atn = true ↔ q.queue ≠ [])

/-- A transfer in ANSWER clocks the response out from its first byte, 0x00 after its last; the port returns to IDLE and RDY
becomes inactive if all of it was clocked, and it keeps the whole response, with RDY active, otherwise. A transfer that was
in progress when reset ended, or whose select was held from WORKING across the making of the response, is ignored: the part
sends 0x00 for its bytes, no flag is set, and its release leaves the port in the state it has, with the whole response kept;
the next one finds the port so. That the port's state decides, and not the name of the row, is the model's choice (log entry
20). -/
def Obligations.ResponseIsClockedOut : Prop :=
  (∀ (p : PortId) (response bytes : List Byte) (s : State), (s.port p).ignoring = false →
    (s.port p).transfer = .answer response →
    ∀ c ∈ [Instr.responseRead p bytes, Instr.frameReceived p bytes, Instr.overlapTransfer p bytes],
      ∃ t : State, exec c s = .next t ∧ t = s.setPort p { s.port p with
          transfer := if response.length ≤ bytes.length then .idle else .answer response
          sent := (response ++ zeros bytes.length).take bytes.length }
        ∧ (s.port p).rdy = true ∧ (t.port p).rdy = decide (bytes.length < response.length))
  ∧ ∀ (p : PortId) (s : State), (s.port p).ignoring = true →
    (∀ (bytes : List Byte), ∀ c ∈ [Instr.frameReceived p bytes, Instr.overlapTransfer p bytes, Instr.responseRead p bytes],
      exec c s = .next (s.setPort p { s.port p with ignoring := false, sent := zeros bytes.length }))
    ∧ ∀ (k : Command) (c : Instr), c.command? = some (p, k) →
      exec c s = .next (s.setPort p { s.port p with ignoring := false, sent := zeros c.frame.length })

/-! ### Reads -/

/-- READ STATUS answers the 50 bytes of R183 and R185 and changes nothing but the port. An armed slot NONE is read as 0xFF by
the model's choice (log entry 16). -/
def Obligations.StatusIsASnapshot : Prop :=
  [LineState.stopped, .crawl, .run, .reverse].map LineState.code = [0, 1, 2, 3]
  ∧ [Direction.forward, .reverse].map Direction.code = [0, 1]
  ∧ ∀ (p : PortId) (s t : State), s.reaches p (.readStatus p) t →
    ∃ l, exec (.readStatus p) s = .next (t.answerPort p (.okWith l)) ∧ l.length = 50
      ∧ byteAt l 0 = (if t.cc.current.isSome then 1 else 0) + (if t.cc.armed.isSome then 2 else 0)
        + (if t.cc.transition.isSome then 4 else 0)
      ∧ field l 1 1 = byte1 t.pu.lineState.code ∧ field l 2 2 = byte2 t.pu.speed ∧ field l 4 1 = byte1 t.pu.speedDir.code
      ∧ field l 5 2 = byte2 t.pu.angle ∧ field l 7 1 = flagByte t.pu.backlash ∧ field l 8 4 = byte4 t.pu.pitch.toNat
      ∧ field l 12 4 = byte4 t.tl.nextSeq.toNat
      ∧ (t.cc.current = none → field l 16 5 = zeros 5)
      ∧ (∀ c, t.cc.current = some c → field l 16 5 = byte4 c.number.toNat ++ byte1 c.slot.val)
      ∧ (t.cc.armed = none → field l 21 6 = zeros 6)
      ∧ (∀ a, t.cc.armed = some a → field l 21 1 = byte1 (match a.slot with
            | some j => j.val
            | none => 255)
        ∧ field l 22 3 = (match a.mode with
            | .immediate => zeros 3
            | .afterBirths n => byte1 1 ++ byte2 n)
        ∧ field l 25 2 = byte2 t.cc.births)
      ∧ (t.cc.transition = none → field l 27 8 = zeros 8)
      ∧ (∀ x, t.cc.transition = some x → field l 27 8 = byte4 x.run.toNat ++ byte4 x.lastSeq.toNat)
      ∧ field l 35 1 = byte1 t.bq.entries.length ∧ field l 36 1 = flagByte t.fh.hold
      ∧ byteAt l 37 = (if t.fh.reverseOverrun.latched then 1 else 0) + (if t.fh.indexSlip.latched then 2 else 0)
        + (if t.fh.quadratureError.latched then 4 else 0)
      ∧ field l 38 3 = byte1 t.fh.reverseOverrun.count ++ byte1 t.fh.indexSlip.count ++ byte1 t.fh.quadratureError.count
      ∧ (∀ i : Fin 4, (byteAt l 41).testBit i.val = t.fh.offline[i]) ∧ field l 42 1 = flagByte t.fh.backlog
      ∧ (∀ g : Fin 3, field l (43 + g.val) 1 = byte1 (t.group g).t)
      ∧ ∀ i : Fin 4, field l (46 + i.val) 1 = flagByte (t.point i).offline

/-- READ CONFIG answers the five parts of R184 with the layouts of R185, RANGE for a part outside them, and changes nothing but
the port. The bytes of a last step or request direction (NONE 0, UP 1, DOWN 2) are the model's choice (log entry 16). -/
def Obligations.ConfigIsReadInFiveParts : Prop :=
  ∀ (p : PortId) (part : Nat) (s t : State), s.reaches p (.readConfig p part) t →
    (4 < part → exec (.readConfig p part) s = .next (t.answerPort p (.refuse .range)))
    ∧ (part ≤ 4 → ∃ l, exec (.readConfig p part) s = .next (t.answerPort p (.okWith l))
      ∧ (part = 0 → l.length = 80 ∧ field l 0 15 = t.config.fields.payload
        ∧ field l 15 5 = byte2 t.pu.target ++ byte1 t.pu.ramp ++ byte2 t.pu.sd
        ∧ ∀ i : Fin 6, field l (20 + 10 * i.val) 10 = (t.probe i).config.fields.tail)
      ∧ (part = 1 ∨ part = 2 → l.length = 136 ∧ ∀ (i : Fin 8) (o : OutId), o.val = 8 * (part - 1) + i.val →
        field l (17 * i.val) 11 = (t.output o).config.fields.tail
          ∧ field l (17 * i.val + 11) 4 = byte2 (t.output o).aOn ++ byte2 (t.output o).aOff
          ∧ field l (17 * i.val + 15) 2 = flagByte (t.output o).clamped ++ flagByte (t.output o).test.isSome)
      ∧ (part = 3 → l.length = 54 ∧ ∀ g : Fin 3, field l (18 * g.val) 10 = (t.group g).config.fields.tail
        ∧ field l (18 * g.val + 10) 8 = byte1 (t.group g).t ++ byte1 (stepCode (t.group g).lastStep)
          ++ byte1 (stepCode (t.group g).request) ++ byte1 (t.group g).count ++ byte4 (t.group g).lastPitch.toNat)
      ∧ (part = 4 → l.length = 36 ∧ ∀ i : Fin 4, field l (9 * i.val) 7 = (t.point i).config.fields.tail
        ∧ field l (9 * i.val + 7) 2 = flagByte (t.point i).offline ++ byte1 (t.point i).timeouts))

/-- How a seq resolves (NEWER, FOUND at the first position that holds it, or GONE), and READ RECORD by SEQ and by POSITION: the
answers of R63 with the 29 bytes of the tracking record; nothing changes but the port. A key byte other than 0 and 1 is answered
RANGE by the model's choice (log entry 17), and a slot NONE is read as 0xFF by the model's choice (log entry 16). -/
def Obligations.RecordIsReadBySeqOrPosition : Prop :=
  [Fate.undecided, .good, .reject, .sample, .void].map Fate.code = [0, 1, 2, 3, 4]
  ∧ [PointStatus.notRequired, .open_, .passed, .failed, .timedOut].map PointStatus.code = [0, 1, 2, 3, 4]
  ∧ (∀ (s : State) (seq : Word32),
    (s.tl.born = false ∨ 0 < (seq - (s.tl.nextSeq - 1)).toInt → s.resolve seq = .newer)
    ∧ (s.tl.born = true → (seq - (s.tl.nextSeq - 1)).toInt ≤ 0 → (∀ r ∈ s.tl.ring, r.seq ≠ seq) → s.resolve seq = .gone)
    ∧ ∀ (pos : Nat) (r : Record), s.tl.born = true → (seq - (s.tl.nextSeq - 1)).toInt ≤ 0 → s.tl.ring[pos]? = some r →
      r.seq = seq → (∀ i q, i < pos → s.tl.ring[i]? = some q → q.seq ≠ seq) → s.resolve seq = .found pos r)
  ∧ ∀ (p : PortId) (by_ key : Nat) (s t : State), s.reaches p (.readRecord p by_ key) t →
    ∃ a, exec (.readRecord p by_ key) s = .next (t.answerPort p a)
      ∧ (1 < by_ → a = .refuse .range)
      ∧ (by_ = 0 → t.resolve (BitVec.ofNat 32 key) = .newer → a = .refuse .noRecord)
      ∧ (by_ = 0 → t.resolve (BitVec.ofNat 32 key) = .gone → a = .refuse .late)
      ∧ (by_ = 1 → t.config.lineLength ≤ key → a = .refuse .range)
      ∧ (by_ = 1 → key < t.config.lineLength → t.recordAt key = none → a = .refuse .empty)
      ∧ ∀ (pos : Nat) (r : Record), ((by_ = 0 ∧ t.resolve (BitVec.ofNat 32 key) = .found pos r)
          ∨ (by_ = 1 ∧ pos = key ∧ key < t.config.lineLength ∧ t.recordAt key = some r)) →
        ∃ l, a = .okWith l ∧ l.length = 29 ∧ field l 0 1 = byte1 pos ∧ field l 1 4 = byte4 r.seq.toNat
          ∧ byteAt l 5 = (if r.run.isSome then 1 else 0) + (if r.deposit.isSome then 2 else 0)
            + (if r.batch.isSome then 4 else 0)
          ∧ field l 6 4 = byte4 (r.run.getD 0).toNat
          ∧ field l 10 1 = byte1 (match r.slot with
            | some j => j.val
            | none => 255)
          ∧ field l 11 4 = byte4 r.birthPitch.toNat ∧ field l 15 1 = flagByte r.void ∧ field l 16 2 = byte2 r.defects.toNat
          ∧ (∀ i : Fin 4, field l (18 + i.val) 1 = byte1 r.status[i].code)
          ∧ field l 22 1 = byte1 (r.deposit.getD 0) ∧ field l 23 1 = byte1 r.fate.code
          ∧ byteAt l 24 = (if r.closing then 1 else 0) + (if r.lastOfRun then 2 else 0)
          ∧ field l 25 4 = byte4 (r.batch.getD 0).toNat

/-- READ SEGMENTS, READ PROFILE and READ RECIPE: the answers of R40 to R42 with their liveness items; nothing changes but the
port. -/
def Obligations.StoreIsReadWithLiveness : Prop :=
  (∀ (p : PortId) (first count : Nat) (s t : State), s.reaches p (.readSegments p first count) t →
    (count < 1 ∨ 12 < count ∨ 256 < first + count →
      exec (.readSegments p first count) s = .next (t.answerPort p (.refuse .range)))
    ∧ (1 ≤ count → count ≤ 12 → first + count ≤ 256 → ∃ l,
      exec (.readSegments p first count) s = .next (t.answerPort p (.okWith l)) ∧ l.length = 5 * count
        ∧ ∀ (i : Nat) (g : Segment), i < count → t.rs.segments[first + i]? = some g →
          field l (5 * i) 4 = byte2 g.theta ++ byte2 g.width
            ∧ (t.liveSegment (first + i) → field l (5 * i + 4) 1 = byte1 1)
            ∧ (¬t.liveSegment (first + i) → field l (5 * i + 4) 1 = byte1 0)))
  ∧ (∀ (p : PortId) (n : Nat) (s t : State), s.reaches p (.readProfile p n) t →
    (64 ≤ n → exec (.readProfile p n) s = .next (t.answerPort p (.refuse .range)))
    ∧ ∀ q : ProfileId, q.val = n → ∃ l, exec (.readProfile p n) s = .next (t.answerPort p (.okWith l)) ∧ l.length = 11
      ∧ field l 0 2 = byte1 (t.rs.profiles[q]).first ++ byte1 (t.rs.profiles[q]).count
      ∧ (byteAt l 2).testBit 0 = (t.rs.profiles[q]).tag.isSome ∧ ((byteAt l 2).testBit 1 = true ↔ t.liveProfile q)
      ∧ (byteAt l 2).testBit 2 = (decide ((t.rs.profiles[q]).count ≠ 0) && (t.rs.profiles[q]).ordered t.rs.segments)
      ∧ byteAt l 2 < 8
      ∧ field l 3 8 = match (t.rs.profiles[q]).tag with
        | some tag => tag.toList
        | none => zeros 8)
  ∧ ∀ (p : PortId) (n : Nat) (s t : State), s.reaches p (.readRecipe p n) t →
    (16 ≤ n → exec (.readRecipe p n) s = .next (t.answerPort p (.refuse .range)))
    ∧ ∀ j : SlotId, j.val = n → ∃ content live undef,
      exec (.readRecipe p n) s = .next (t.answerPort p (.okWith (content ++ live ++ undef)))
        ∧ (t.recipe j = none → content = byte1 0 ∧ undef = zeros 2)
        ∧ (∀ r, t.recipe j = some r → content = byte1 1 ++ r.fields.payload
          ∧ ∃ mask, undef = byte2 mask ∧ mask < 65536
            ∧ ∀ o : OutId, mask.testBit o.val = true ↔ ∃ q : ProfileId, r.outputMap[o] = some q
              ∧ (t.rs.profiles[q]).count = 0)
        ∧ live = flagByte (t.cc.current.map CurrentRun.slot == some j)
          ++ flagByte (t.cc.armed.bind ArmedJob.slot == some j)
          ++ byte1 (t.tl.ring.filter (fun r => r.slot == some j)).length

/-- READ BATCH answers the 40 bytes of the open batch record and the forced-close pending flag. BOX PEEK returns the oldest
entry and the occupancy; neither changes anything but the port. BOX TAKE returns the entry with the occupancy after the
removal, removes it, and tests the backlog. Both are answered EMPTY with an empty queue. The test of the backlog: at the
threshold, or above, the cause becomes STANDING with the notice BACKLOG, below it WITHDRAWN; HOLD follows, with HOLD CHANGED
at a change of its level. -/
def Obligations.BatchAndBoxesAreRead : Prop :=
  (∀ (p : PortId) (s t : State), s.reaches p (.readBatch p) t →
    ∃ l, exec (.readBatch p) s = .next (t.answerPort p (.okWith l)) ∧ l.length = 40
      ∧ field l 0 1 = flagByte t.cu.batch.owner.isSome ∧ field l 1 4 = byte4 t.cu.batch.number.toNat
      ∧ (t.cu.batch.owner = none → field l 5 9 = zeros 9 ∧ field l 30 8 = zeros 8)
      ∧ (∀ o, t.cu.batch.owner = some o → field l 5 9 = byte4 o.run.toNat ++ byte1 o.slot.val ++ byte4 o.jobCode.toNat
        ∧ field l 30 8 = byte4 o.firstSeq.toNat ++ byte4 o.lastSeq.toNat)
      ∧ field l 14 16 = byte4 t.cu.batch.good.toNat ++ byte4 t.cu.batch.reject.toNat ++ byte4 t.cu.batch.sample.toNat
        ++ byte4 t.cu.batch.suspect.toNat
      ∧ field l 38 2 = flagByte t.cu.batch.overrun ++ flagByte t.cu.forcePending)
  ∧ (∀ (p : PortId) (s t : State), t.bq.entries = [] →
    (s.reaches p (.boxPeek p) t → exec (.boxPeek p) s = .next (t.answerPort p (.refuse .empty)))
    ∧ (s.reaches p (.boxTake p) t → exec (.boxTake p) s = .next (t.answerPort p (.refuse .empty))))
  ∧ (∀ (p : PortId) (s t : State) (e : BoxEntry) (rest : List BoxEntry), t.bq.entries = e :: rest →
    ∃ l, l.length = 39
      ∧ l = byte4 e.number.toNat ++ byte4 e.owner.run.toNat ++ byte1 e.owner.slot.val ++ byte4 e.owner.jobCode.toNat
        ++ byte4 e.good.toNat ++ byte4 e.reject.toNat ++ byte4 e.sample.toNat ++ byte4 e.suspect.toNat
        ++ byte4 e.owner.firstSeq.toNat ++ byte4 e.owner.lastSeq.toNat
        ++ byte1 (match e.reason with
          | .full => 0
          | .runEnd => 1
          | .forced => 2
          | .clear => 3)
        ++ flagByte e.overrun
      ∧ (s.reaches p (.boxPeek p) t →
        exec (.boxPeek p) s = .next (t.answerPort p (.okWith (l ++ byte1 (rest.length + 1)))))
      ∧ (s.reaches p (.boxTake p) t → ∃ u : State,
        exec (.boxTake p) s = .next (u.answerPort p (.okWith (l ++ byte1 rest.length)))
          ∧ u = (t.withBq { t.bq with entries := rest }).testBacklog
          ∧ u.bq.entries = rest ∧ u.bq.standing = decide (t.config.backlog ≤ rest.length)
          ∧ (t.fh.backlog = t.bq.standing → u.fh.backlog = u.bq.standing)
          ∧ u.fh = { t.fh with backlog := u.fh.backlog, hold := u.fh.hold }
          ∧ u.pu = t.pu ∧ u.rs = t.rs ∧ u.tl = t.tl ∧ u.fu = t.fu ∧ u.tr = t.tr ∧ u.iu = t.iu ∧ u.cu = t.cu ∧ u.cc = t.cc
          ∧ u.fresh = t.fresh ∧ u.pending = t.pending ∧ ∀ q, PortGrow (t.port q) (u.port q)))
  ∧ ∀ s : State,
    let stands := s.config.backlog ≤ s.bq.entries.length
    (stands → s.bq.standing = true → s.testBacklog = s) ∧ (¬stands → s.bq.standing = false → s.testBacklog = s)
    ∧ (stands → s.bq.standing = false → ∀ e rest, s.bq.entries = e :: rest → ∃ u v : State, u = s.testBacklog
      ∧ v = s.notify (fun _ r => r == .pack) (.backlog s.bq.entries.length s.config.backlog e.number)
      ∧ u = ((s.withBq { s.bq with standing := true }).withFh { s.fh with backlog := true, hold := true }).withPorts u.ports
      ∧ (s.fh.hold = true → u.ports = v.ports)
      ∧ (s.fh.hold = false →
        u.ports = (v.notify (fun _ r => r == .line) (.holdChanged true s.fh.faults s.fh.offline true)).ports))
    ∧ (¬stands → s.bq.standing = true → ∃ u : State, u = s.testBacklog
      ∧ u = ((s.withBq { s.bq with standing := false }).withFh { s.fh with backlog := false, hold := u.fh.hold }).withPorts u.ports
      ∧ (u.fh.hold = true ↔ s.fh.faults ≠ ⟨false, false, false⟩ ∨ ∃ i : Fin 4, s.fh.offline[i] = true)
      ∧ (u.fh.hold = s.fh.hold → u.ports = s.ports)
      ∧ (u.fh.hold ≠ s.fh.hold →
        u.ports = (s.notify (fun _ r => r == .line) (.holdChanged u.fh.hold s.fh.faults s.fh.offline false)).ports))

/-- NOTICE TAKE removes the oldest notices of its port, up to four, and returns them, oldest first, each with its kind, the
length of its fields, its pitch count and its fields, as the table of section 11.7 lays out each of the fifteen notices; the
overflow flag is reported as it stood and cleared, and ATN stays active where more than four stood. A slot NONE is 0xFF, a run
NONE 0, a step direction UP 1, DOWN 2, and in the presence byte of RUN STARTED the new run bit 0 and the ending run bit 1, by
the model's choice (log entry 16). -/
def Obligations.NoticeTakeRemovesTheOldest : Prop :=
  (∀ (p : PortId) (s t : State), s.reaches p (.noticeTake p) t → ∃ l, ∃ u : State, exec (.noticeTake p) s = .next u
      ∧ u = (t.setPort p { t.port p with
        queue := (t.port p).queue.drop 4, overflow := false }).answerPort p ⟨.ok, l, some (t.port p).overflow⟩
      ∧ ((u.port p).atn = true ↔ 4 < (t.port p).queue.length)
      ∧ l = byte1 (min 4 (t.port p).queue.length) ++ ((t.port p).queue.take 4).flatMap NoticeRecord.layout
      ∧ l.length ≤ 173)
  ∧ [ResetCause.powerOn, .resetPin].map ResetCause.code = [0, 1]
  ∧ [Role.line, .inspect, .pack, .service].map Role.code = [0, 1, 2, 3]
  ∧ [LineState.stopped, .crawl, .run, .reverse].map LineState.code = [0, 1, 2, 3]
  ∧ [Direction.forward, .reverse].map Direction.code = [0, 1]
  ∧ [TrackFault.reverseOverrun, .indexSlip, .quadratureError].map TrackFault.code = [0, 1, 2]
  ∧ [TimeoutPolicy.reject, .pass].map TimeoutPolicy.code = [0, 1]
  ∧ [CloseReason.full, .runEnd, .forced, .clear].map CloseReason.code = [0, 1, 2, 3]
  ∧ ∀ (pitch : Word32) (n : Notice), ∃ kind fields,
    (⟨pitch, n⟩ : NoticeRecord).layout = byte1 kind ++ byte1 fields.length ++ byte4 pitch.toNat ++ fields
    ∧ let run4 := fun v : Option Word32 => byte4 (v.getD 0).toNat
      let slot1 := fun v : Option SlotId => byte1 (match v with
        | some j => j.val
        | none => 255)
      match n with
      | .restart cause role => kind = 0x01 ∧ fields.length = 2 ∧ fields = byte1 cause.code ++ byte1 role.code
      | .lineState new old speed =>
        kind = 0x02 ∧ fields.length = 4 ∧ fields = byte1 new.code ++ byte1 old.code ++ byte2 speed
      | .overspeed sum4 dir =>
        kind = 0x03 ∧ fields.length = 5 ∧ fields = byte4 (BitVec.ofInt 32 sum4).toNat ++ byte1 dir.code
      | .trackingFault fault e b angle marked error =>
        kind = 0x04 ∧ fields.length = 9 ∧ fields = byte1 fault.code ++ byte2 e ++ flagByte b ++ byte2 angle ++ byte1 marked
          ++ byte2 (BitVec.ofInt 16 error).toNat
      | .holdChanged level faults offline backlog =>
        kind = 0x05 ∧ fields.length = 4 ∧ fields = flagByte level
          ++ byte1 ((if faults.reverseOverrun then 1 else 0) + (if faults.indexSlip then 2 else 0)
            + (if faults.quadratureError then 4 else 0))
          ++ byte1 ((if offline[0] then 1 else 0) + (if offline[1] then 2 else 0) + (if offline[2] then 4 else 0)
            + (if offline[3] then 8 else 0))
          ++ flagByte backlog
      | .runStarted run firstSeq ending =>
        kind = 0x06 ∧ fields.length = 22
          ∧ fields = byte1 ((if run.isSome then 1 else 0) + (if ending.isSome then 2 else 0))
            ++ run4 (run.map (fun x => x.1.number)) ++ slot1 (run.map (fun x => x.1.slot)) ++ run4 (run.map (fun x => x.2))
            ++ byte4 firstSeq.toNat ++ run4 (ending.map Transition.run) ++ run4 (ending.map Transition.lastSeq)
      | .switchDeferred slot mode births occupancy =>
        kind = 0x07 ∧ fields.length = 5 ∧ fields = slot1 slot ++ byte1 (match mode with
          | .immediate => 0
          | .afterBirths _ => 1) ++ byte2 births ++ byte1 occupancy
      | .runEnded r =>
        kind = 0x08 ∧ fields.length = 37
          ∧ fields = byte4 r.number.toNat ++ byte1 r.slot.val ++ byte4 r.jobCode.toNat ++ byte4 r.firstSeq.toNat
            ++ run4 r.lastSeq ++ byte4 r.births.toNat ++ byte4 r.voids.toNat ++ byte4 r.good.toNat ++ byte4 r.reject.toNat
            ++ byte4 r.sample.toNat
      | .arrival point seq run slot =>
        kind = 0x09 ∧ fields.length = 10 ∧ fields = byte1 point.val ++ byte4 seq.toNat ++ run4 run ++ slot1 slot
      | .verdictMissed point seq run slot policy count =>
        kind = 0x0A ∧ fields.length = 12
          ∧ fields = byte1 point.val ++ byte4 seq.toNat ++ run4 run ++ slot1 slot ++ byte1 policy.code ++ byte1 count
      | .pointOffline point seq limit =>
        kind = 0x0B ∧ fields.length = 6 ∧ fields = byte1 point.val ++ byte4 seq.toNat ++ byte1 limit
      | .trimLimit group high value dir m =>
        kind = 0x0C ∧ fields.length = 5 ∧ fields = byte1 group.val ++ flagByte high ++ byte1 value ++ byte1 (match dir with
          | .up => 1
          | .down => 2) ++ byte1 m
      | .timingLimit output clamped speed rawOn rawOff =>
        kind = 0x0D ∧ fields.length = 8
          ∧ fields = byte1 output.val ++ flagByte clamped ++ byte2 speed ++ byte2 rawOn ++ byte2 rawOff
      | .batchClosed number reason good =>
        kind = 0x0E ∧ fields.length = 9 ∧ fields = byte4 number.toNat ++ byte1 reason.code ++ byte4 good.toNat
      | .backlog occupancy threshold oldest =>
        kind = 0x0F ∧ fields.length = 6 ∧ fields = byte1 occupancy ++ byte1 threshold ++ byte4 oldest.toNat

/-! ### Position, speed, line state -/

/-- One count with the source ENCODER: e and the angle move, a forward wrap is a pitch advance with b = 0 and clears b with b =
1, a reverse wrap sets b and with b = 1 raises REVERSE OVERRUN; the count sets the direction, adds to the interval count and
leaves STOPPED, with LINE STATE, the end of every test pulse and, in reverse, of every pulse. STOPPED is left before the
angle moves, so LINE STATE of a first count carries the pitch count before its own advance and stands before that advance's
notices: the model's reading and choice (log entry 10, DEDUCED; log entry 11, a count). Where it makes no pitch advance and
raises no fault, only the outputs, the marks of records, the probes' observation and the births since arming can change
beside the Position Unit. The count in its parts: the angle moves within the cycle, by a forward wrap or by a reverse wrap.
-/
def Obligations.CountMovesTheAngle : Prop :=
  (∀ (r : SampleRun) (d : Direction) (s : State), s.makesCount r d →
    ∃ t : State, exec (.encoderCount r) s = .next t
      ∧ t.pu = (match d with
        | .forward =>
          if s.pu.e + 1 < s.config.cpc then
            { s.pu.counted r d with e := s.pu.e + 1, angle := (s.pu.e + 1) * 4096 / s.config.cpc }
          else if s.pu.backlash then { s.pu.counted r d with e := 0, angle := 0, backlash := false }
          else { s.pu.counted r d with e := 0, angle := 0, pitch := s.pu.pitch + 1 }
        | .reverse =>
          if s.pu.e = 0 then
            { s.pu.counted r d with
              e := s.config.cpc - 1, angle := (s.config.cpc - 1) * 4096 / s.config.cpc, backlash := true }
          else { s.pu.counted r d with e := s.pu.e - 1, angle := (s.pu.e - 1) * 4096 / s.config.cpc })
      ∧ t.rs = s.rs ∧ t.tr = s.tr ∧ (∀ o : OutId, (t.output o).config = (s.output o).config)
      ∧ (d = .forward → s.pu.e + 1 < s.config.cpc ∨ s.pu.backlash = true → s.standsIn t)
      ∧ (d = .reverse → 0 < s.pu.e ∨ s.pu.backlash = false → s.standsIn t)
      ∧ (d = .reverse → s.pu.e = 0 → s.pu.backlash = true → t.births = s.births
        ∧ t.fh.reverseOverrun =
          ⟨true, if s.fh.reverseOverrun.latched then min 255 (s.fh.reverseOverrun.count + 1) else 1⟩
        ∧ (∀ q ∈ t.tl.ring, hasCode q.defects 2 = true)
        ∧ ∃ v : State, t = v.raiseFault .reverseOverrun 0 ∧ v.pu = t.pu ∧ v.fh = s.fh
          ∧ (s.pu.lineState ≠ .stopped → v = s.withPu t.pu))
      ∧ (s.pu.lineState = .stopped → (∀ o : OutId, (t.output o).test = none)
        ∧ (d = .reverse → ∀ o : OutId, (t.output o).pulses = [])
        ∧ ∀ p, (s.port p).role = .line → (s.port p).queue.length < 32 →
          (⟨s.pu.pitch, .lineState t.pu.lineState .stopped s.pu.speed⟩ : NoticeRecord) ∈ (t.port p).queue)
      ∧ (s.pu.lineState ≠ .stopped → ∀ o : OutId, (t.output o).test = (s.output o).test)
      ∧ t = (s.withPu (s.pu.levels r)).count d)
  ∧ ∀ s : State,
    let fwd := (s.withPu { s.pu with dir := .forward, interval := s.pu.interval + 1 }).leaveStopped .crawl
    let rev := (s.withPu { s.pu with dir := .reverse, interval := s.pu.interval - 1 }).leaveStopped .reverse
    (s.pu.e + 1 < s.config.cpc → s.count .forward
      = (fwd.withPu { fwd.pu with e := s.pu.e + 1 }).forwardTo ((s.pu.e + 1) * 4096 / s.config.cpc))
    ∧ (s.config.cpc ≤ s.pu.e + 1 → s.count .forward = (fwd.withPu { fwd.pu with e := 0 }).forwardWrap 0)
    ∧ (0 < s.pu.e → s.count .reverse
      = rev.withPu { rev.pu with e := s.pu.e - 1, angle := (s.pu.e - 1) * 4096 / s.config.cpc })
    ∧ (s.pu.e = 0 → ∃ v : State, v = rev.withPu { rev.pu with
        e := s.config.cpc - 1, angle := (s.config.cpc - 1) * 4096 / s.config.cpc }
      ∧ (s.pu.backlash = false → s.count .reverse = v.withPu { v.pu with backlash := true })
      ∧ (s.pu.backlash = true → s.count .reverse = v.raiseFault .reverseOverrun 0))

/-- A forward wrap with b = 0, of the encoder or of the internal drive, is a pitch advance: the pitch count increments and
wraps, the record at P−1 leaves, every other moves by one with the fields of its birth, and one record is born at position 0
with the next seq, the new pitch count and the run that the switch test of this advance leaves current. The event is carried
out in this order: the line leaves STOPPED, the rest of the ending cycle is passed, the pitch count increments, every k
rises by one, the seen-bad flags are cleared, the switch test, the birth, the arrivals, the arming, the late expiries, the
passing of the new cycle up to the new angle, the end of pulses. That STOPPED is left first (log entry 10), the two phases
round the advance (log entry 13) and the omissions after the arrivals (log entry 31) are the model's readings. Its parts: a
forward wrap with b = 0 and with b = 1, a move within the cycle, the k of every occurrence and pulse one more, every
seen-bad flag cleared and nothing else. -/
def Obligations.ForwardWrapIsAPitchAdvance : Prop :=
  (∀ (via : Stimulus) (s : State), s.advances via →
    ∃ t : State, exec (.switch via) s = .next t ∧ exec (.forcedClose via) s = .next t
      ∧ t.pu.pitch = s.pu.pitch + 1 ∧ t.tl.nextSeq = s.tl.nextSeq + 1 ∧ t.tl.born = true
      ∧ t.births = (s.tl.nextSeq, t.cc.current.map CurrentRun.number, t.cc.current.map CurrentRun.slot, s.pu.pitch + 1)
        :: s.births.take (s.config.lineLength - 1)
      ∧ t.rs = s.rs ∧ t.tr = s.tr ∧ t.config = s.config ∧ t.pending = s.pending ∧ (∀ p, PortGrow (s.port p) (t.port p))
      ∧ ∃ (u v : State) (a : Nat),
        (∀ r, via = .encoder r → a = 0 ∧ u = ((s.withPu
          { s.pu.levels r with dir := .forward, interval := s.pu.interval + 1 }).leaveStopped .crawl).setE 0)
        ∧ (via = .addition → ∃ (total : Nat) (w : State), total = s.pu.acc + increment s.pu.sd
          ∧ a = total % accumulatorSize / 65536 ∧ w = (if 0 < s.pu.sd then s.leaveStopped .crawl else s)
          ∧ u = w.withPu { w.pu with dir := .forward, acc := total % accumulatorSize })
        ∧ v = (if u.pu.angle < 4095 then u.passForward u.pu.angle 4095 (1 + a) else u)
        ∧ t = ((v.setAngle a).countPitch.advanceFiring.clearSeen.switchTest.birth.arrivals.armAll.expireLate.passForward
          0 a 0).endPulses
        ∧ t = u.forwardWrap a)
  ∧ (∀ (s : State) (a : Nat),
    s.setAngle a = s.withPu { s.pu with angle := a } ∧ s.setE a = s.withPu { s.pu with e := a }
    ∧ (s.pu.backlash = true →
      s.forwardWrap a = ((s.withPu { s.pu with backlash := false, angle := a }).passForward 0 a 0).endPulses)
    ∧ (s.pu.backlash = false → ∃ v : State,
      v = (if s.pu.angle < 4095 then s.passForward s.pu.angle 4095 (1 + a) else s)
        ∧ s.forwardWrap a = ((v.setAngle a).countPitch.advanceFiring.clearSeen.switchTest.birth.arrivals.armAll.expireLate.passForward
          0 a 0).endPulses)
    ∧ (s.pu.backlash = true ∨ a ≤ s.pu.angle → s.forwardTo a = s.withPu { s.pu with angle := a })
    ∧ (s.pu.backlash = false → s.pu.angle < a →
      s.forwardTo a = ((s.withPu { s.pu with angle := a }).passForward s.pu.angle a 0).endPulses))
  ∧ ∀ s : State, s.countPitch = s.withPu { s.pu with pitch := s.pu.pitch + 1 }
    ∧ s.advanceFiring = s.withFu s.advanceFiring.fu
    ∧ (∀ o : OutId, s.advanceFiring.output o = { s.output o with
        armed := (s.output o).armed.map fun q => { q with k := q.k + 1 }
        pulses := (s.output o).pulses.map fun q => { q with k := q.k + 1 } })
    ∧ s.clearSeen = s.withTl { s.tl with probes := s.clearSeen.tl.probes }
    ∧ ∀ i : Fin 6, s.clearSeen.probe i = { s.probe i with seenBad := false }

/-- An accepted rising change of ENC_Z with the index check enabled and the source ENCODER: ignored with the count direction
REVERSE; with FORWARD, e is corrected by the table of R9, by a step back or by a forward wrap, and INDEX SLIP is raised for an
error outside the tolerance. At the same sample as a count, the check comes after that count has moved e: a forward wrap leaves
no error, and a reverse count makes the edge ignored. At the same sample as a quadrature error there is no count, and both
faults are raised, each in its own right, in either order: a free value (log entry 9). The fault carries the index error and the
position after the correction. What the correction does. -/
def Obligations.IndexEdgeCorrectsTheEdgeCount : Prop :=
  (∀ (r : SampleRun) (s : State), s.config.source = .encoder → s.config.indexEnable = true → s.accepts r →
    r.z = true → s.pu.e < s.config.cpc →
    let raised := fun l : FaultLatch => (⟨true, if l.latched then min 255 (l.count + 1) else 1⟩ : FaultLatch)
    let error := fun e : Nat => if 2 * e ≤ s.config.cpc then (e : Int) else (e : Int) - s.config.cpc
    let slips := fun e : Nat => (2 * e ≤ s.config.cpc ∧ s.config.indexTolerance < e)
      ∨ (s.config.cpc < 2 * e ∧ s.config.indexTolerance < s.config.cpc - e)
    (s.pu.settled r.a r.b false →
      (s.pu.dir = .reverse → exec (.indexEdge r) s = .next (s.withPu (s.pu.levels r)))
      ∧ (s.pu.dir = .forward → s.pu.e = 0 → exec (.indexEdge r) s = .next (s.withPu (s.pu.levels r)))
      ∧ (s.pu.dir = .forward → 0 < s.pu.e → ∃ t : State, exec (.indexEdge r) s = .next t
        ∧ (2 * s.pu.e ≤ s.config.cpc → t.pu = { s.pu.levels r with e := 0, angle := 0 } ∧ t.births = s.births)
        ∧ (s.config.cpc < 2 * s.pu.e → s.pu.backlash = true →
          t.pu = { s.pu.levels r with e := 0, angle := 0, backlash := false } ∧ t.births = s.births)
        ∧ (s.config.cpc < 2 * s.pu.e → s.pu.backlash = false →
          t.pu = { s.pu.levels r with e := 0, angle := 0, pitch := s.pu.pitch + 1 } ∧ t.tl.nextSeq = s.tl.nextSeq + 1)
        ∧ ((2 * s.pu.e ≤ s.config.cpc ∧ s.pu.e ≤ s.config.indexTolerance)
            ∨ (s.config.cpc < 2 * s.pu.e ∧ s.config.cpc - s.pu.e ≤ s.config.indexTolerance) →
          t.fh.indexSlip = s.fh.indexSlip)
        ∧ ((2 * s.pu.e ≤ s.config.cpc ∧ s.config.indexTolerance < s.pu.e)
            ∨ (s.config.cpc < 2 * s.pu.e ∧ s.config.indexTolerance < s.config.cpc - s.pu.e) →
          t.fh.indexSlip = ⟨true, if s.fh.indexSlip.latched then min 255 (s.fh.indexSlip.count + 1) else 1⟩
            ∧ (∀ q ∈ t.tl.ring, hasCode q.defects 2 = true)
            ∧ ∃ v : State, t = v.raiseFault .indexSlip (error s.pu.e) ∧ v.pu = t.pu ∧ v.fh.indexSlip = s.fh.indexSlip
              ∧ (2 * s.pu.e ≤ s.config.cpc → v = s.withPu t.pu))
        ∧ t.fh.reverseOverrun = s.fh.reverseOverrun ∧ t.fh.quadratureError = s.fh.quadratureError
        ∧ t.rs = s.rs ∧ t.tr = s.tr
        ∧ ∃ v : State, v = (s.withPu (s.pu.levels r)).correctIndex ∧ (¬slips s.pu.e → t = v)
          ∧ (slips s.pu.e → t = v.raiseFault .indexSlip (error s.pu.e))))
    ∧ (∀ a b : Bool, s.pu.settled a b false → countRow s.config.countMode a b r.a r.b .reverse →
      ∃ t : State, exec (.indexEdge r) s = .next t ∧ t.fh.indexSlip = s.fh.indexSlip
        ∧ t.fh.quadratureError = s.fh.quadratureError
        ∧ t.pu = (if s.pu.e = 0 then
            { s.pu.counted r .reverse with
              e := s.config.cpc - 1, angle := (s.config.cpc - 1) * 4096 / s.config.cpc, backlash := true }
          else { s.pu.counted r .reverse with e := s.pu.e - 1, angle := (s.pu.e - 1) * 4096 / s.config.cpc })
        ∧ t = (s.withPu (s.pu.levels r)).count .reverse)
    ∧ (∀ a b : Bool, s.pu.settled a b false → countRow s.config.countMode a b r.a r.b .forward →
      ∃ t : State, exec (.indexEdge r) s = .next t
        ∧ t.pu = (if 2 * (s.pu.e + 1) ≤ s.config.cpc ∧ s.pu.e + 1 < s.config.cpc then
            { s.pu.counted r .forward with e := 0, angle := 0 }
          else if s.pu.backlash then { s.pu.counted r .forward with e := 0, angle := 0, backlash := false }
          else { s.pu.counted r .forward with e := 0, angle := 0, pitch := s.pu.pitch + 1 })
        ∧ t.fh.reverseOverrun = s.fh.reverseOverrun ∧ t.fh.quadratureError = s.fh.quadratureError
        ∧ (s.pu.e + 1 = s.config.cpc ∨ ¬slips (s.pu.e + 1) → t.fh.indexSlip = s.fh.indexSlip)
        ∧ (s.pu.e + 1 < s.config.cpc → slips (s.pu.e + 1) → t.fh.indexSlip = raised s.fh.indexSlip
          ∧ (∀ q ∈ t.tl.ring, hasCode q.defects 2 = true)
          ∧ ∃ v : State, t = v.raiseFault .indexSlip (error (s.pu.e + 1)) ∧ v.pu = t.pu)
        ∧ ∃ v : State, v = ((s.withPu (s.pu.levels r)).count .forward).correctIndex
          ∧ (s.pu.e + 1 = s.config.cpc ∨ ¬slips (s.pu.e + 1) → t = v)
          ∧ (s.pu.e + 1 < s.config.cpc → slips (s.pu.e + 1) → t = v.raiseFault .indexSlip (error (s.pu.e + 1))))
    ∧ ∀ a b : Bool, s.pu.settled a b false → s.config.countMode ≠ .pulseDir → r.a ≠ a → r.b ≠ b →
      ∃ t : State, exec (.indexEdge r) s = .next t
        ∧ t.pu = (if s.pu.dir = .reverse ∨ s.pu.e = 0 then s.pu.levels r
          else if 2 * s.pu.e ≤ s.config.cpc then { s.pu.levels r with e := 0, angle := 0 }
          else if s.pu.backlash then { s.pu.levels r with e := 0, angle := 0, backlash := false }
          else { s.pu.levels r with e := 0, angle := 0, pitch := s.pu.pitch + 1 })
        ∧ t.fh.reverseOverrun = s.fh.reverseOverrun ∧ t.fh.quadratureError = raised s.fh.quadratureError
        ∧ (s.pu.dir = .reverse ∨ s.pu.e = 0 ∨ ¬slips s.pu.e → t.fh.indexSlip = s.fh.indexSlip)
        ∧ (s.pu.dir = .forward → 0 < s.pu.e → slips s.pu.e → t.fh.indexSlip = raised s.fh.indexSlip
          ∧ ∃ v : State, v.pu = t.pu ∧ (t = (v.raiseFault .indexSlip (error s.pu.e)).raiseFault .quadratureError 0
            ∨ t = (v.raiseFault .quadratureError 0).raiseFault .indexSlip (error s.pu.e)))
        ∧ (∀ q ∈ t.tl.ring, hasCode q.defects 2 = true)
        ∧ ∃ v w : State, v = s.withPu (s.pu.levels r) ∧ w = (if s.pu.dir = .reverse then v else v.correctIndex)
          ∧ (s.pu.dir = .reverse ∨ s.pu.e = 0 ∨ ¬slips s.pu.e → t = w.raiseFault .quadratureError 0)
          ∧ (s.pu.dir = .forward → 0 < s.pu.e → slips s.pu.e → ∃ x : State, x = w.withFresh (w.fresh + 1)
            ∧ (t = (x.raiseFault .indexSlip (error s.pu.e)).raiseFault .quadratureError 0
              ∨ t = (x.raiseFault .quadratureError 0).raiseFault .indexSlip (error s.pu.e))))
  ∧ ∀ s : State, (s.pu.e = 0 → s.correctIndex = s)
    ∧ (0 < s.pu.e → 2 * s.pu.e ≤ s.config.cpc → s.correctIndex = s.withPu { s.pu with e := 0, angle := 0 })
    ∧ (0 < s.pu.e → s.config.cpc < 2 * s.pu.e → s.correctIndex = (s.withPu { s.pu with e := 0 }).forwardWrap 0)

/-- ENC_A and ENC_B changing at one accepted sample in X1, X2 or X4: no count, the accepted levels take their new values, and
QUADRATURE ERROR is raised: latched or counted once more, DISTURBED on every record, TRACKING FAULT to LINE and SERVICE at the
raise that latches it, HOLD following the causes. What the raise of any tracking fault does, with its index error: TRACKING
FAULT and then, where HOLD becomes active, HOLD CHANGED, in that order at a LINE port by the model's choice (log entry 11, a
raise). -/
def Obligations.QuadratureErrorIsRaised : Prop :=
  (∀ (r : SampleRun) (a b : Bool) (s : State), s.config.source = .encoder → s.config.countMode ≠ .pulseDir → s.accepts r →
    s.pu.settled a b r.z → r.a ≠ a → r.b ≠ b →
    ∃ t : State, exec (.quadratureError r) s = .next t ∧ t.pu = s.pu.levels r
      ∧ t.fh.quadratureError =
        ⟨true, if s.fh.quadratureError.latched then min 255 (s.fh.quadratureError.count + 1) else 1⟩
      ∧ t.fh.reverseOverrun = s.fh.reverseOverrun ∧ t.fh.indexSlip = s.fh.indexSlip ∧ t.fh.offline = s.fh.offline
      ∧ t.fh.backlog = s.fh.backlog
      ∧ (s.fh.quadratureError.latched = false → t.fh.hold = true
        ∧ ∀ p, (s.port p).role = .line ∨ (s.port p).role = .service → (s.port p).queue.length < 32 →
          (⟨s.pu.pitch, .trackingFault .quadratureError s.pu.e s.pu.backlash s.pu.angle
            (s.tl.ring.filter (fun q => !hasCode q.defects 2)).length 0⟩ : NoticeRecord) ∈ (t.port p).queue)
      ∧ (s.fh.quadratureError.latched = true → t.fh.hold = s.fh.hold ∧ t.ports = s.ports)
      ∧ t.tl = { s.tl with ring := s.tl.ring.map (fun q => q.addDefect 2) }
      ∧ t.rs = s.rs ∧ t.fu = s.fu ∧ t.tr = s.tr ∧ t.iu = s.iu ∧ t.cu = s.cu ∧ t.bq = s.bq ∧ t.cc = s.cc
      ∧ t.fresh = s.fresh ∧ t.pending = s.pending ∧ ∀ p, PortGrow (s.port p) (t.port p))
  ∧ (∀ (h : FH) (l : FaultLatch), h.latch .reverseOverrun = h.reverseOverrun ∧ h.latch .indexSlip = h.indexSlip
    ∧ h.latch .quadratureError = h.quadratureError ∧ h.setLatch .reverseOverrun l = { h with reverseOverrun := l }
    ∧ h.setLatch .indexSlip l = { h with indexSlip := l } ∧ h.setLatch .quadratureError l = { h with quadratureError := l }
    ∧ h.faults = ⟨h.reverseOverrun.latched, h.indexSlip.latched, h.quadratureError.latched⟩)
  ∧ ∀ (s : State) (f : TrackFault) (error : Int), ∃ l v w, l = s.fh.latch f
    ∧ v = (s.withTl { s.tl with ring := s.tl.ring.map (fun q => q.addDefect 2) }).withFh
      (s.fh.setLatch f ⟨true, if l.latched then min 255 (l.count + 1) else 1⟩)
    ∧ w = v.notify (fun _ r => r == .line || r == .service) (.trackingFault f s.pu.e s.pu.backlash s.pu.angle
      (s.tl.ring.filter (fun q => !hasCode q.defects 2)).length error)
    ∧ (l.latched = true → s.raiseFault f error = v)
    ∧ (l.latched = false → s.fh.hold = true → s.raiseFault f error = w)
    ∧ (l.latched = false → s.fh.hold = false → s.raiseFault f error = (w.withFh { w.fh with hold := true }).notify
      (fun _ r => r == .line) (.holdChanged true w.fh.faults w.fh.offline w.fh.backlog))

/-- What an accepted change of level that is no count, no index edge and no quadrature error does: it becomes the accepted
level, and nothing else changes. So do the first levels after reset. A run shorter than the stability time is held, and a level
that returns before it has passed is discarded. A run of 0 samples changes nothing: the model's choice (log entry 2). The number
of samples is the model's reading of the time (log entry 3). -/
def Obligations.LevelsAreFilteredAndAccepted : Prop :=
  ∀ (r : SampleRun) (s : State),
    (∀ a b z, s.pu.settled a b z → s.accepts r →
      s.config.source = .internal
        ∨ ((∀ d, ¬countRow s.config.countMode a b r.a r.b d)
          ∧ (s.config.countMode = .pulseDir ∨ r.a = a ∨ r.b = b)
          ∧ (z = true ∨ r.z = false ∨ s.config.indexEnable = false ∨ s.pu.dir = .reverse)) →
      exec (.acceptedLevelChange r) s = .next (s.withPu (s.pu.levels r)))
    ∧ (s.pu.encA = ⟨none, none⟩ → s.pu.encB = ⟨none, none⟩ → s.pu.encZ = ⟨none, none⟩ → s.accepts r →
      exec (.acceptedLevelChange r) s = .next (s.withPu (s.pu.levels r)))
    ∧ (r.samples = 0 → exec (.acceptedLevelChange r) s = .next s)
    ∧ (∀ a b z, s.pu.settled a b z → 0 < r.samples → r.samples < 4 * 2 ^ s.config.filter + 1 →
      exec (.acceptedLevelChange r) s = .next (s.withPu { s.pu with
        encA := ⟨some a, if r.a = a then none else some ⟨r.a, r.samples, s.config.filter⟩⟩
        encB := ⟨some b, if r.b = b then none else some ⟨r.b, r.samples, s.config.filter⟩⟩
        encZ := ⟨some z, if r.z = z then none else some ⟨r.z, r.samples, s.config.filter⟩⟩ }))
    ∧ (0 < r.samples → (s.pu.encA).accepted = some r.a → (s.pu.encB).accepted = some r.b →
      (s.pu.encZ).accepted = some r.z →
      exec (.acceptedLevelChange r) s = .next (s.withPu (s.pu.levels r)))

/-- One addition of the internal drive: Q joins the accumulator, the angle is its integer part, the direction is FORWARD, the
first addition with Sd above 0 leaves STOPPED, with LINE STATE and the end of every test pulse, and a carry past 4095 is a
forward wrap; e, the interval count and the gate history keep their values. STOPPED is left before the angle moves, so LINE
STATE of a first addition carries the pitch count before its own advance and stands before that advance's notices: the
model's reading and choice (log entry 10, DEDUCED; log entry 11, a count). With the source ENCODER the row has no effect
(log entry 28). -/
def Obligations.AdditionMovesTheAngle : Prop :=
  ∀ s : State,
    (s.config.source = .encoder → exec .internalAddition s = .next s)
    ∧ (s.config.source = .internal → ∃ (t : State) (total : Nat), exec .internalAddition s = .next t
      ∧ total = s.pu.acc + (2 * (s.pu.sd * 4096 * 65536) + 6000000) / 12000000
      ∧ t.pu = { s.pu with
        dir := .forward
        acc := total % 268435456
        angle := total % 268435456 / 65536
        backlash := s.pu.backlash && decide (total < 268435456)
        pitch := if 268435456 ≤ total ∧ s.pu.backlash = false then s.pu.pitch + 1 else s.pu.pitch
        quiet := if s.pu.lineState = .stopped ∧ 0 < s.pu.sd then 0 else s.pu.quiet
        lineState := if s.pu.lineState = .stopped ∧ 0 < s.pu.sd then .crawl else s.pu.lineState }
      ∧ (total < 268435456 ∨ s.pu.backlash = true → s.standsIn t) ∧ t.rs = s.rs ∧ t.tr = s.tr
      ∧ (s.pu.lineState = .stopped → 0 < s.pu.sd → (∀ o : OutId, (t.output o).test = none)
        ∧ ∀ p, (s.port p).role = .line → (s.port p).queue.length < 32 →
          (⟨s.pu.pitch, .lineState .crawl .stopped s.pu.speed⟩ : NoticeRecord) ∈ (t.port p).queue)
      ∧ (s.pu.lineState ≠ .stopped ∨ s.pu.sd = 0 → ∀ o : OutId, (t.output o).test = (s.output o).test)
      ∧ ∃ u v : State, u = (if 0 < s.pu.sd then s.leaveStopped .crawl else s)
        ∧ v = u.withPu { u.pu with dir := .forward, acc := total % 268435456 }
        ∧ (total < 268435456 → t = v.forwardTo (total / 65536))
        ∧ (268435456 ≤ total → t = v.forwardWrap (total % 268435456 / 65536)))

/-- A speed gate. With the source ENCODER the net count joins the gate history and S is the rounded speed of the four counts,
at most 2,400, with OVERSPEED at the gate that first exceeds it; with INTERNAL the ramp moves Sd and S takes it. The outputs
take their advances from the new S, within 2,048 points. They do so in the order of their numbers (log entry 11): each
gives its ARMED occurrences new points and sends TIMING LIMIT where its clamp state changes; then all are judged at the angle as
it stands. The advances that TIMING LIMIT carries for a disabled output are the model's choice (log entry 18). -/
def Obligations.SpeedGateGivesSpeedAndAdvances : Prop :=
  (∀ s : State, ∃ t : State, exec .speedGate s = .next t
    ∧ (s.config.source = .encoder → ∃ (sum4 : Int) (v : Nat), sum4 = s.pu.gates.g1 + s.pu.gates.g2 + s.pu.gates.g3 + s.pu.interval
      ∧ v = (2 * (sum4.natAbs * 1500) + s.config.cpc) / (2 * s.config.cpc)
      ∧ t.pu = { s.pu with
        gates := ⟨s.pu.gates.g1, s.pu.gates.g2, s.pu.gates.g3, s.pu.interval⟩
        interval := 0
        speed := min v 2400
        speedDir := if sum4 < 0 then .reverse else .forward
        saturated := decide (2400 < v)
        quiet := t.pu.quiet
        lineState := t.pu.lineState }
      ∧ (2400 < v → s.pu.saturated = false → ∀ p, (s.port p).role = .line → (s.port p).queue.length < 32 →
        (⟨s.pu.pitch, .overspeed sum4 (if sum4 < 0 then .reverse else .forward)⟩ : NoticeRecord) ∈ (t.port p).queue))
    ∧ (s.config.source = .internal → ∃ sd, sd = (if s.pu.sd < s.pu.target then min (s.pu.sd + s.pu.ramp) s.pu.target
        else if s.pu.target < s.pu.sd then max (s.pu.sd - s.pu.ramp) s.pu.target else s.pu.sd)
      ∧ t.pu = { s.pu with
        sd := sd, speed := sd, speedDir := .forward, quiet := t.pu.quiet, lineState := t.pu.lineState })
    ∧ (∀ o : OutId, (t.output o).config = (s.output o).config
      ∧ ((s.output o).config.enable = true →
        (t.output o).aOn = min 2048 ((2 * ((s.output o).config.lon * t.pu.speed * 4096) + 60000000) / 120000000)
        ∧ (t.output o).aOff = min 2048 ((2 * ((s.output o).config.loff * t.pu.speed * 4096) + 60000000) / 120000000)
        ∧ (t.output o).clamped
          = (decide (2048 < (2 * ((s.output o).config.lon * t.pu.speed * 4096) + 60000000) / 120000000)
            || decide (2048 < (2 * ((s.output o).config.loff * t.pu.speed * 4096) + 60000000) / 120000000)))
      ∧ ((s.output o).config.enable = false →
        (t.output o).aOn = 0 ∧ (t.output o).aOff = 0 ∧ (t.output o).clamped = false))
    ∧ t.tr = s.tr ∧ s.standsIn t
    ∧ ∃ w : State, t = w.takeSpeed ∧ w.pu = t.pu ∧ w.tr = s.tr ∧ s.standsIn w
      ∧ ∀ o : OutId, w.output o = { s.output o with pulses := (w.output o).pulses })
  ∧ (∀ s : State, s.takeSpeed = ((List.finRange 16).foldl State.recomputeOutput s).judgeAll s.pu.angle 0)
  ∧ ∀ (s : State) (o : OutId),
    let u := s.output o
    let raw := fun latency : Nat => (2 * (latency * s.pu.speed * 4096) + 60000000) / 120000000
    let on := min 2048 (raw u.config.lon)
    let off := min 2048 (raw u.config.loff)
    let clamped := decide (2048 < raw u.config.lon) || decide (2048 < raw u.config.loff)
    (u.config.enable = true → ∃ v : State, v = s.setOutput o { u with
        aOn := on
        aOff := off
        clamped := clamped
        armed := u.armed.map fun q => { q with
          on := (q.theta : Int) - on
          expiry := (q.theta : Int) - on + effectiveWidth q.width (s.trimOf u.config) on off } }
      ∧ (clamped = u.clamped → s.recomputeOutput o = v)
      ∧ (clamped ≠ u.clamped → s.recomputeOutput o = v.notify (fun _ r => r == .line)
        (.timingLimit o clamped s.pu.speed (raw u.config.lon) (raw u.config.loff))))
    ∧ (u.config.enable = false → ∃ v : State, v = s.setOutput o { u with aOn := 0, aOff := 0, clamped := false }
      ∧ (u.clamped = false → s.recomputeOutput o = v)
      ∧ (u.clamped = true → s.recomputeOutput o = v.notify (fun _ r => r == .line) (.timingLimit o false s.pu.speed 0 0)))

/-- The line state at a gate: unchanged in STOPPED; otherwise the quiet gates are counted and the first of the five conditions
that holds gives the new state, STOPPED at the stop time first. A change sends LINE STATE to LINE; an entry to REVERSE leaves no
pulse in progress, and leaving RUN none on a run-only output. At a gate the notices stand in the order OVERSPEED, LINE STATE,
TIMING LIMIT, so LINE STATE finds a place in every queue shorter than 31: the model's choice (log entry 11, a speed gate). What
a change of line state does, at a gate or at the leaving of STOPPED. -/
def Obligations.GateSetsTheLineState : Prop :=
  (∀ s : State, ∃ (t : State) (quiet : Nat) (sum4 : Int), exec .quietGateStop s = .next t
    ∧ sum4 = t.pu.gates.g0 + t.pu.gates.g1 + t.pu.gates.g2 + t.pu.gates.g3
    ∧ quiet = (if (s.config.source = .encoder ∧ s.pu.interval = 0) ∨ (s.config.source = .internal ∧ s.pu.sd = 0)
        then min 200 (s.pu.quiet + 1) else 0)
    ∧ (s.pu.lineState = .stopped → t.pu.lineState = .stopped ∧ t.pu.quiet = s.pu.quiet)
    ∧ (s.pu.lineState ≠ .stopped → t.pu.quiet = quiet
      ∧ t.pu.lineState =
        if s.config.stopTime ≤ quiet then .stopped
        else if (s.pu.lineState = .crawl ∨ s.pu.lineState = .run) ∧ sum4 < 0 then .reverse
        else if s.pu.lineState = .reverse ∧ 0 < sum4 then .crawl
        else if s.pu.lineState = .crawl ∧ s.config.runThreshold ≤ t.pu.speed then .run
        else if s.pu.lineState = .run
            ∧ (t.pu.speed : Int) < (s.config.runThreshold : Int) - (s.config.runHysteresis : Int) then .crawl
        else s.pu.lineState)
    ∧ (t.pu.lineState ≠ s.pu.lineState → ∀ p, (s.port p).role = .line → (s.port p).queue.length < 31 →
      (⟨s.pu.pitch, .lineState t.pu.lineState s.pu.lineState t.pu.speed⟩ : NoticeRecord) ∈ (t.port p).queue)
    ∧ (t.pu.lineState = .reverse → s.pu.lineState ≠ .reverse → ∀ o : OutId, (t.output o).pulses = [])
    ∧ (s.pu.lineState = .run → t.pu.lineState ≠ .run → ∀ o : OutId, (s.output o).config.runOnly = true →
      (t.output o).pulses = [])
    ∧ ∃ x : State, t = (x.setLineState t.pu.lineState).takeSpeed
      ∧ x = (s.withPu { t.pu with lineState := s.pu.lineState }).withPorts x.ports
      ∧ (t.pu.saturated = false ∨ s.pu.saturated = true → x.ports = s.ports)
      ∧ (t.pu.saturated = true → s.pu.saturated = false →
        x.ports = (s.notify (fun _ r => r == .line) (.overspeed sum4 t.pu.speedDir)).ports))
  ∧ ∀ (s : State) (new : LineState),
    (s.pu.lineState ≠ .stopped → s.leaveStopped new = s)
    ∧ (s.pu.lineState = .stopped → s.leaveStopped new = (s.withPu { s.pu with quiet := 0 }).setLineState new)
    ∧ (new = s.pu.lineState → s.setLineState new = s)
    ∧ (new ≠ s.pu.lineState → ∃ u v : State,
      u = (s.withPu { s.pu with lineState := new }).notify (fun _ r => r == .line)
        (.lineState new s.pu.lineState s.pu.speed)
      ∧ v = u.withFu v.fu
      ∧ (∀ o : OutId, v.output o = { s.output o with
          test := if s.pu.lineState = .stopped then none else (s.output o).test })
      ∧ (new = .reverse → s.setLineState new = (List.finRange 16).foldl State.forceOff v)
      ∧ (new ≠ .reverse → s.pu.lineState = .run → s.setLineState new = (List.finRange 16).foldl
        (fun w o => if (w.output o).config.runOnly = true then w.forceOff o else w) v)
      ∧ (new ≠ .reverse → s.pu.lineState ≠ .run → s.setLineState new = v))

/-- SOURCE: RANGE for another source, STATE unless STOPPED, OK with no change for the source in force; otherwise the changes of
R20, with every advance 0. RANGE before STATE, the speed direction and the direction after the change to INTERNAL are the
model's choices (log entries 15 and 17). DRIVE: RANGE for a field out of range, STATE with the source ENCODER, otherwise OK in
any line state: target and ramp are replaced and nothing else changes. RANGE before STATE for DRIVE too is the model's choice
(log entry 17). -/
def Obligations.SourceAndDriveAreJudged : Prop :=
  (∀ (p : PortId) (source : Nat) (s t : State), s.reaches p (.source p source) t →
    (1 < source → exec (.source p source) s = .next (t.answerPort p (.refuse .range)))
    ∧ (source ≤ 1 → t.pu.lineState ≠ .stopped → exec (.source p source) s = .next (t.answerPort p (.refuse .state)))
    ∧ (t.pu.lineState = .stopped → (source = 0 ∧ t.config.source = .encoder) ∨ (source = 1 ∧ t.config.source = .internal) →
      exec (.source p source) s = .next (t.answerPort p .done))
    ∧ (t.pu.lineState = .stopped → (source = 1 ∧ t.config.source = .encoder) ∨ (source = 0 ∧ t.config.source = .internal) →
      ∃ u : State, exec (.source p source) s = .next (u.answerPort p .done)
        ∧ (source = 1 → u.pu = { t.pu with
          acc := t.pu.angle * 65536, sd := 0, target := 0, gates := ⟨0, 0, 0, 0⟩, interval := 0, speed := 0
          speedDir := .forward, saturated := false, dir := .forward, config := { t.config with source := .internal } })
        ∧ (source = 0 → u.pu = { t.pu with
          e := t.pu.angle * t.config.cpc / 4096, angle := t.pu.angle * t.config.cpc / 4096 * 4096 / t.config.cpc
          sd := 0, target := 0, gates := ⟨0, 0, 0, 0⟩, interval := 0, speed := 0
          speedDir := .forward, saturated := false, dir := .forward, config := { t.config with source := .encoder } })
        ∧ (∀ o : OutId, (u.output o).aOn = 0 ∧ (u.output o).aOff = 0 ∧ (u.output o).clamped = false
          ∧ (u.output o).config = (t.output o).config)
        ∧ u.tr = t.tr ∧ t.standsIn u ∧ u = (t.withPu u.pu).takeSpeed))
  ∧ ∀ (p : PortId) (target ramp : Nat) (s t : State), s.reaches p (.drive p target ramp) t →
    (2400 < target ∨ ramp < 1 ∨ 200 < ramp →
      exec (.drive p target ramp) s = .next (t.answerPort p (.refuse .range)))
    ∧ (target ≤ 2400 → 1 ≤ ramp → ramp ≤ 200 → t.config.source = .encoder →
      exec (.drive p target ramp) s = .next (t.answerPort p (.refuse .state)))
    ∧ (target ≤ 2400 → 1 ≤ ramp → ramp ≤ 200 → t.config.source = .internal →
      exec (.drive p target ramp) s
        = .next ((t.withPu { t.pu with target := target, ramp := ramp }).answerPort p .done))

/-- LINE CONFIG: RANGE by its fields and geometry, RANGE by the probes, outputs and points in force, STATE, IN USE, in this
order; otherwise OK with the effects of R23: where S becomes 0 the outputs take advances of 0 first, then the backlog is
tested against the new threshold (that order of their notices is log entry 11, the model's choice). The speed direction
FORWARD where the gate history is zeroed, and the count direction at a change of source and at a new CPC, are the model's
choices (log entry 15), and so is RANGE for an index enable byte above 1 (log entry 17). -/
def Obligations.LineConfigIsJudgedInOrder : Prop :=
  ∀ (p : PortId) (f : LineFields) (s t : State), s.reaches p (.lineConfig p f) t →
    let ok := 4 ≤ f.lineLength ∧ f.lineLength ≤ 64 ∧ 2 ≤ f.gate ∧ f.gate ≤ f.count ∧ f.count + 1 ≤ f.lineLength
      ∧ 256 ≤ f.cpc ∧ f.cpc ≤ 16384 ∧ f.countMode ≤ 3 ∧ f.filter ≤ 7 ∧ f.indexEnable ≤ 1 ∧ f.indexTolerance ≤ 255
      ∧ 2 ≤ f.stopTime ∧ f.stopTime ≤ 200 ∧ 1 ≤ f.runThreshold ∧ f.runThreshold ≤ 2400 ∧ f.runHysteresis ≤ 255
      ∧ f.source ≤ 1 ∧ 1 ≤ f.backlog ∧ f.backlog ≤ 16
    let fits := (∀ i : Fin 6, (t.probe i).config.enable = true → (t.probe i).config.position + 1 ≤ f.lineLength)
      ∧ (∀ o : OutId, (t.output o).config.enable = true →
        1 ≤ (t.output o).config.station ∧ (t.output o).config.station + 1 ≤ f.lineLength
          ∧ ((t.output o).config.gating = .reject ∨ (t.output o).config.gating = .sample →
            f.gate ≤ (t.output o).config.station)
          ∧ ((t.output o).config.gating = .closing → f.count + 1 ≤ (t.output o).config.station))
      ∧ ∀ i : Fin 4, (t.point i).config.enable = true → (t.point i).config.deadline + 1 ≤ f.gate
    let moves := f.lineLength ≠ t.config.lineLength ∨ f.gate ≠ t.config.gate ∨ f.count ≠ t.config.count
    let counts := f.cpc ≠ t.config.cpc ∨ f.countMode ≠ t.config.countMode.code
    (¬ok → exec (.lineConfig p f) s = .next (t.answerPort p (.refuse .range)))
    ∧ (ok → ¬fits → exec (.lineConfig p f) s = .next (t.answerPort p (.refuse .range)))
    ∧ (ok → fits → t.pu.lineState ≠ .stopped → exec (.lineConfig p f) s = .next (t.answerPort p (.refuse .state)))
    ∧ (ok → fits → t.pu.lineState = .stopped → moves → t.tl.ring ≠ [] →
      exec (.lineConfig p f) s = .next (t.answerPort p (.refuse .inUse)))
    ∧ (ok → fits → t.pu.lineState = .stopped → ¬moves ∨ t.tl.ring = [] →
      ∃ u : State, exec (.lineConfig p f) s = .next (u.answerPort p .done) ∧ u.config.fields = f
        ∧ (f = t.config.fields → u = t)
        ∧ (¬counts → f.source = t.config.source.code → u.pu = { t.pu with config := u.config })
        ∧ (counts → f.source = 0 → t.config.source = .encoder → u.pu = { t.pu with
          e := t.pu.angle * f.cpc / 4096, angle := t.pu.angle * f.cpc / 4096 * 4096 / f.cpc, gates := ⟨0, 0, 0, 0⟩
          interval := 0, speed := 0, speedDir := .forward, saturated := false, config := u.config })
        ∧ (counts → f.source = 1 → t.config.source = .internal → u.pu = { t.pu with
          e := t.pu.angle * f.cpc / 4096, gates := ⟨0, 0, 0, 0⟩, interval := 0, speedDir := .forward
          saturated := false, config := u.config })
        ∧ (f.source = 0 → t.config.source = .internal → u.pu = { t.pu with
          e := t.pu.angle * f.cpc / 4096, angle := t.pu.angle * f.cpc / 4096 * 4096 / f.cpc, gates := ⟨0, 0, 0, 0⟩
          interval := 0, speed := 0, speedDir := .forward, saturated := false, sd := 0, target := 0, dir := .forward
          config := u.config })
        ∧ (f.source = 1 → t.config.source = .encoder → ∃ e angle,
          (counts → e = t.pu.angle * f.cpc / 4096 ∧ angle = e * 4096 / f.cpc)
          ∧ (¬counts → e = t.pu.e ∧ angle = t.pu.angle)
          ∧ u.pu = { t.pu with
            e := e, angle := angle, acc := angle * 65536, gates := ⟨0, 0, 0, 0⟩, interval := 0, speed := 0
            speedDir := .forward, saturated := false, sd := 0, target := 0, dir := .forward, config := u.config })
        ∧ (f ≠ t.config.fields → u.bq.standing = decide (f.backlog ≤ t.bq.entries.length))
        ∧ (counts ∧ f.source = 0 ∨ f.source ≠ t.config.source.code →
          u = (t.withPu u.pu).takeSpeed.testBacklog
            ∧ ∀ o : OutId, (u.output o).aOn = 0 ∧ (u.output o).aOff = 0 ∧ (u.output o).clamped = false)
        ∧ (f ≠ t.config.fields → ¬(counts ∧ f.source = 0) → f.source = t.config.source.code →
          u = (t.withPu u.pu).testBacklog)
        ∧ u.bq.entries = t.bq.entries ∧ u.births = t.births ∧ u.tl = { t.tl with ring := u.tl.ring }
        ∧ u.rs = t.rs ∧ u.tr = t.tr ∧ u.iu = t.iu ∧ u.cu = t.cu ∧ u.cc = t.cc
        ∧ (∀ o : OutId, (u.output o).config = (t.output o).config) ∧ ∀ q, PortGrow (t.port q) (u.port q))

/-! ### Probes, outputs, trim groups, inspection points -/

/-- PROBE CONFIG: RANGE in the cases of R51, otherwise OK: the configuration takes the fields, the seen-bad flag is cleared,
observation starts again, the last evaluated seq is kept, and nothing else changes. PROBE_SAMPLE: a disabled probe observes
nothing; an enabled one is marked seen-bad when the bad level has been held for the stable time and a record stands at its
position with the angle inside the window, b = 0 and the count direction FORWARD. The count of samples at the bad level is the
model's way of holding the stable time (log entry 7), and RANGE for an enable or bad level byte above 1 is its choice (log entry
17). -/
def Obligations.ProbesAreConfiguredAndSampled : Prop :=
  (∀ (p : PortId) (f : ProbeFields) (s t : State), s.reaches p (.probeConfig p f) t →
    let ok := f.probe ≤ 5 ∧ f.enable ≤ 1 ∧ f.position + 1 ≤ t.config.lineLength ∧ f.onAngle ≤ 4094 ∧ f.onAngle < f.offAngle
      ∧ f.offAngle ≤ 4095 ∧ f.badLevel ≤ 1 ∧ f.stableTime ≤ 255 ∧ f.kind ≤ 1 ∧ (f.kind = 0 → f.position = 0)
      ∧ (f.kind = 1 → f.code ≤ 15)
    (¬ok → exec (.probeConfig p f) s = .next (t.answerPort p (.refuse .range)))
    ∧ ∀ i : Fin 6, i.val = f.probe → ok → ∃ c : ProbeConfig,
      exec (.probeConfig p f) s = .next ((t.setProbe i ⟨c, false, (t.probe i).lastEval, 0⟩).answerPort p .done)
        ∧ c.fields = { f with probe := 0, code := if f.kind = 0 then 0 else f.code })
  ∧ ∀ (levels : Vector Bool 6) (s : State), ∃ v : Vector ProbeUnit 6,
    exec (.probeSample levels) s = .next (s.withTl { s.tl with probes := v })
      ∧ ∀ i : Fin 6, ((s.probe i).config.enable = false → v[i] = s.probe i)
        ∧ ((s.probe i).config.enable = true → v[i].config = (s.probe i).config ∧ v[i].lastEval = (s.probe i).lastEval)
        ∧ ((s.probe i).config.enable = true → levels[i] ≠ (s.probe i).config.badHigh →
          v[i].badRun = 0 ∧ v[i].seenBad = (s.probe i).seenBad)
        ∧ ((s.probe i).config.enable = true → levels[i] = (s.probe i).config.badHigh →
          v[i].badRun = min 256 ((s.probe i).badRun + 1)
            ∧ (v[i].seenBad = true ↔ (s.probe i).seenBad = true
              ∨ ((s.probe i).config.stableTime + 1 ≤ min 256 ((s.probe i).badRun + 1)
                ∧ (∃ r, s.recordAt (s.probe i).config.position = some r)
                ∧ (s.probe i).config.onAngle ≤ s.pu.angle ∧ s.pu.angle < (s.probe i).config.offAngle
                ∧ s.pu.backlash = false ∧ s.pu.dir = .forward)))

/-- OUTPUT CONFIG: RANGE for a field, RANGE for the station of an enabled output, STATE, in this order; OK and nothing changed
for the configuration in force; otherwise the output's work ends, the configuration takes the fields, and its advances and
clamp state follow from S, with TIMING LIMIT at a change of clamp state (0 and 0 where it is disabled: log entry 18, the
model's choice). For an old class PRESENT with an omission code, the code joins each record with a pulse in progress, or
with an ARMED occurrence where the gating test passes. RANGE for an enable, polarity or run-only byte above 1 is the model's
choice (log entry 17). -/
def Obligations.OutputConfigIsJudgedInOrder : Prop :=
  ∀ (p : PortId) (f : OutputFields) (s t : State), s.reaches p (.outputConfig p f) t →
    let ok := f.output ≤ 15 ∧ f.enable ≤ 1 ∧ f.polarity ≤ 1 ∧ 1 ≤ f.station ∧ f.station ≤ 63 ∧ f.gating ≤ 4
      ∧ f.lon ≤ 20000 ∧ f.loff ≤ 20000 ∧ (f.trimGroup ≤ 2 ∨ f.trimGroup = 255) ∧ f.runOnly ≤ 1
      ∧ (f.omission ≤ 15 ∨ f.omission = 255)
    let placed := f.enable = 1 → f.station + 1 ≤ t.config.lineLength
      ∧ (f.gating = 2 ∨ f.gating = 3 → t.config.gate ≤ f.station) ∧ (f.gating = 4 → t.config.count + 1 ≤ f.station)
    (¬ok → exec (.outputConfig p f) s = .next (t.answerPort p (.refuse .range)))
    ∧ (ok → ¬placed → exec (.outputConfig p f) s = .next (t.answerPort p (.refuse .range)))
    ∧ (ok → placed → t.pu.lineState ≠ .stopped → exec (.outputConfig p f) s = .next (t.answerPort p (.refuse .state)))
    ∧ ∀ o : OutId, o.val = f.output → ok → placed → t.pu.lineState = .stopped →
      ((t.output o).config.fields = { f with output := 0 } → exec (.outputConfig p f) s = .next (t.answerPort p .done))
      ∧ ((t.output o).config.fields ≠ { f with output := 0 } → ∃ (u : State) (c : OutputConfig) (rawOn rawOff : Nat),
        exec (.outputConfig p f) s = .next (u.answerPort p .done)
          ∧ c.fields = { f with output := 0 }
          ∧ rawOn = (2 * (f.lon * t.pu.speed * 4096) + 60000000) / 120000000
          ∧ rawOff = (2 * (f.loff * t.pu.speed * 4096) + 60000000) / 120000000
          ∧ u.output o = (if f.enable = 1 then
              ⟨c, min 2048 rawOn, min 2048 rawOff, decide (2048 < rawOn) || decide (2048 < rawOff), [], [], none⟩
            else ⟨c, 0, 0, false, [], [], none⟩)
          ∧ (∀ q : OutId, q ≠ o → u.output q = t.output q) ∧ u.pu = t.pu ∧ u.tr = t.tr ∧ t.standsIn u
          ∧ ((t.output o).config.gating ≠ .present ∨ (t.output o).config.omission = none → u.tl = t.tl)
          ∧ (∀ code, (t.output o).config.gating = .present → (t.output o).config.omission = some code →
            ∀ (i : Nat) (r : Record), t.tl.ring[i]? = some r →
              let omitted := ((∃ q ∈ (t.output o).armed, q.seq = r.seq) ∧ t.gateOpen .present r.seq = true)
                ∨ ∃ q ∈ (t.output o).pulses, q.seq = r.seq
              (omitted → u.tl.ring[i]? = some { r with defects := addCode r.defects code })
                ∧ (¬omitted → u.tl.ring[i]? = some r))
          ∧ ((u.output o).clamped = (t.output o).clamped → u.ports = t.ports)
          ∧ ((u.output o).clamped ≠ (t.output o).clamped → u.ports = (t.notify (fun _ r => r == .line) (.timingLimit o
            (u.output o).clamped t.pu.speed (if f.enable = 1 then rawOn else 0) (if f.enable = 1 then rawOff else 0))).ports))

/-- TEST PULSE: RANGE, STATE for the line, STATE for a disabled output, PENDING, in this order; otherwise OK and the test pulse
begins with its whole duration, and nothing else changes. TEST_PULSE_END: the time base runs until the output's time remaining
is 0; every other test pulse has that much less, and nothing else changes. With nothing waiting, a step is one microsecond, with
the same effect. An output line shows its active level while the output has a pulse
or a test pulse in progress: high with polarity HIGH, low with polarity LOW. That TEST_PULSE_END and the empty queue run the
time base is the model's choice (log entry 4). -/
def Obligations.TestPulseRunsItsTime : Prop :=
  (∀ (p : PortId) (output duration : Nat) (s t : State), s.reaches p (.testPulse p output duration) t →
    (15 < output ∨ duration < 1 ∨ 1000 < duration →
      exec (.testPulse p output duration) s = .next (t.answerPort p (.refuse .range)))
    ∧ ∀ o : OutId, o.val = output → 1 ≤ duration → duration ≤ 1000 →
      (t.pu.lineState ≠ .stopped ∨ (t.output o).config.enable = false →
        exec (.testPulse p output duration) s = .next (t.answerPort p (.refuse .state)))
      ∧ (t.pu.lineState = .stopped → (t.output o).config.enable = true → (∃ n, (t.output o).test = some n) →
        exec (.testPulse p output duration) s = .next (t.answerPort p (.refuse .pending)))
      ∧ (t.pu.lineState = .stopped → (t.output o).config.enable = true → (t.output o).test = none →
        exec (.testPulse p output duration) s = .next
          ((t.setOutput o { t.output o with test := some (duration * 1000) }).answerPort p .done)))
  ∧ (∀ (o : OutId) (s : State), ∃ t : State, exec (.testPulseEnd o) s = .next t ∧ t = s.withFu t.fu
    ∧ (t.output o).test = none
    ∧ ∀ q : OutId, t.output q = { s.output q with test := (t.output q).test }
      ∧ ((s.output q).test = none → (t.output q).test = none)
      ∧ ∀ m n, (s.output o).test = some m → (s.output q).test = some n →
        (t.output q).test = if n ≤ m then none else some (n - m))
  ∧ (∀ s : State, s.pending = [] → ∃ t, step s = .next t ∧ t = s.withFu t.fu
    ∧ ∀ o : OutId, t.output o = { s.output o with test := (t.output o).test }
      ∧ ((s.output o).test = none → (t.output o).test = none)
      ∧ ∀ n, (s.output o).test = some n → (t.output o).test = if n ≤ 1 then none else some (n - 1))
  ∧ ∀ u : OutputUnit, (u.active = true ↔ u.pulses ≠ [] ∨ ∃ n, u.test = some n)
    ∧ (u.config.activeHigh = true → u.level = u.active) ∧ (u.config.activeHigh = false → u.level = !u.active)

/-- TRIM CONFIG and SET TRIM: RANGE in the cases of R102 and R104; otherwise OK with T as it stands after the command. An
identical TRIM CONFIG changes nothing; a changed one clamps T into the new range and forgets the requests; SET TRIM clamps its
value, forgets the steps and the requests, and restarts the tick. Another group is never reached, and a T that stays the same
reaches no output; one that changes reaches the ARMED occurrences of the group's outputs. No notice is sent. -/
def Obligations.TrimCommandsClampTheValue : Prop :=
  (∀ (p : PortId) (f : TrimFields) (s t : State), s.reaches p (.trimConfig p f) t →
    let ok := f.group ≤ 2 ∧ f.mode ≤ 1 ∧ 32 ≤ f.tmin ∧ f.tmin ≤ f.tmax ∧ f.tmax ≤ 255 ∧ 1 ≤ f.upStep ∧ f.upStep ≤ 15
      ∧ 1 ≤ f.downStep ∧ f.downStep ≤ 15 ∧ f.hysteresis ≤ 7 ∧ 1 ≤ f.tick ∧ f.tick ≤ 255 ∧ f.noise < f.low ∧ f.low ≤ f.high
      ∧ f.high ≤ 127
    (¬ok → exec (.trimConfig p f) s = .next (t.answerPort p (.refuse .range)))
    ∧ ∀ g : Fin 3, g.val = f.group → ok →
      ((t.group g).config.fields = { f with group := 0 } →
        exec (.trimConfig p f) s = .next (t.answerPort p (.okWith (byte1 (t.group g).t))))
      ∧ ((t.group g).config.fields ≠ { f with group := 0 } → ∃ (u : State) (c : TrimConfig) (v : Nat),
        v = max f.tmin (min f.tmax (t.group g).t) ∧ c.fields = { f with group := 0 }
          ∧ exec (.trimConfig p f) s = .next (u.answerPort p (.okWith (byte1 v)))
          ∧ u.group g = { t.group g with config := c, t := v, request := none, count := 0 }
          ∧ (∀ h : Fin 3, h ≠ g → u.group h = t.group h) ∧ u.pu = t.pu ∧ t.standsIn u
          ∧ (v = (t.group g).t → u.fu = t.fu ∧ u.tl = t.tl)
          ∧ (v ≠ (t.group g).t → u = (t.setGroup g (u.group g)).takeTrim g) ∧ u.ports = t.ports))
  ∧ ∀ (p : PortId) (group value : Nat) (s t : State), s.reaches p (.setTrim p group value) t →
    (2 < group ∨ value < 32 ∨ 255 < value →
      exec (.setTrim p group value) s = .next (t.answerPort p (.refuse .range)))
    ∧ ∀ g : Fin 3, g.val = group → 32 ≤ value → value ≤ 255 → ∃ (u : State) (v : Nat),
      v = max (t.group g).config.tmin (min (t.group g).config.tmax value)
        ∧ exec (.setTrim p group value) s = .next (u.answerPort p (.okWith (byte1 v)))
        ∧ u.group g = ⟨(t.group g).config, v, none, none, 0, t.pu.pitch⟩
        ∧ (∀ h : Fin 3, h ≠ g → u.group h = t.group h) ∧ u.pu = t.pu ∧ t.standsIn u
        ∧ (v = (t.group g).t → u.fu = t.fu ∧ u.tl = t.tl)
        ∧ (v ≠ (t.group g).t → u = (t.setGroup g (u.group g)).takeTrim g) ∧ u.ports = t.ports

/-- What a measurement does to its group: ABSENT marks the record with GUM ABSENT and nothing else; THIN, IN BAND and HEAVY
regulate in AUTO for a record without RAMP and do nothing otherwise: a request UP, a request count of 0, a request DOWN. A
request of the regulator: the needed number of agreeing requests is 1, or H + 1 against the last step; the request is counted,
saturating at 8; a step is taken when the count reaches the needed number and the tick has passed, and at no other request.
TRIM LIMIT at a step that is clamped onto a limit where T did not stand. A changed T gives the ARMED occurrences of the group's
outputs new points, each output judged at once, in the order of their numbers (log entry 12). -/
def Obligations.TrimStepNeedsAgreementAndTick : Prop :=
  (∀ (s : State) (i : Fin 3) (seq : Word32) (m : Nat),
    let c := (s.group i).config
    (m ≤ c.noise → s.measure i seq m = s.withTl { s.tl with
      ring := s.tl.ring.map fun r => if r.seq = seq then { r with defects := addCode r.defects 6 } else r })
    ∧ ∀ r, s.recordOf seq = some r → c.noise < m →
      (c.mode = .manual ∨ hasCode r.defects 0 = true → s.measure i seq m = s)
      ∧ (c.mode = .auto → hasCode r.defects 0 = false →
        (m < c.low → s.measure i seq m = s.requestTrim i .up m)
        ∧ (c.low ≤ m → m ≤ c.high → s.measure i seq m = s.setGroup i { s.group i with count := 0 })
        ∧ (c.low ≤ m → c.high < m → s.measure i seq m = s.requestTrim i .down m)))
  ∧ (∀ (s : State) (i : Fin 3) (d : StepDir) (m : Nat),
    let g := s.group i
    let needed := if g.lastStep = none ∨ g.lastStep = some d then 1 else g.config.hysteresis + 1
    let count := if g.request = some d then min 8 (g.count + 1) else 1
    let raw : Int := match d with
      | .up => (g.t : Int) + g.config.upStep
      | .down => (g.t : Int) - g.config.downStep
    (needed ≤ count → g.config.tick ≤ (s.pu.pitch - g.lastPitch).toNat → ∃ (x : TrimGroup) (u v : State), x = { g with
        t := (max (g.config.tmin : Int) (min (g.config.tmax : Int) raw)).toNat
        lastStep := some d, request := some d, count := 0, lastPitch := s.pu.pitch }
      ∧ (s.requestTrim i d m).group i = x ∧ u = s.setGroup i x
      ∧ ((g.config.tmax : Int) < raw → g.t ≠ g.config.tmax →
        v = u.notify (fun _ r => r == .line) (.trimLimit i true x.t d m))
      ∧ (raw ≤ g.config.tmax ∨ g.t = g.config.tmax → raw < g.config.tmin → g.t ≠ g.config.tmin →
        v = u.notify (fun _ r => r == .line) (.trimLimit i false x.t d m))
      ∧ (raw ≤ g.config.tmax ∨ g.t = g.config.tmax → (g.config.tmin : Int) ≤ raw ∨ g.t = g.config.tmin → v = u)
      ∧ s.requestTrim i d m = (if x.t = g.t then v else v.takeTrim i))
    ∧ (count < needed ∨ (s.pu.pitch - g.lastPitch).toNat < g.config.tick →
      s.requestTrim i d m = s.setGroup i { g with request := some d, count := count }))
  ∧ (∀ (s : State) (g : Fin 3), s.takeTrim g = (List.finRange 16).foldl (fun u o =>
      if (u.output o).config.trim = some g then
        (u.setOutput o { u.output o with
          armed := (u.output o).armed.map fun q => { q with
            on := (q.theta : Int) - (u.output o).aOn
            expiry := (q.theta : Int) - (u.output o).aOn
              + effectiveWidth q.width (u.group g).t (u.output o).aOn (u.output o).aOff } }).judgeHere o
      else u) s)
  ∧ ∀ (s : State) (o : OutId),
    (s.pu.backlash = true ∨ s.pu.dir = .reverse ∨ s.pu.lineState = .reverse → s.judgeHere o = s)
    ∧ (s.pu.backlash = false → s.pu.dir = .forward → s.pu.lineState ≠ .reverse →
      s.judgeHere o = s.judgeOutput s.pu.angle 0 o)

/-- POINT CONFIG: RANGE for a field, RANGE for an enabled point's deadline and port, IN USE with a record in the ring, in this
order; OK and nothing changed for the configuration in force; otherwise the point takes the fields, ONLINE with count 0, and
its hold cause is withdrawn. POINT RESUME: RANGE, ROLE, STATE in this order; OK and nothing changed for an ONLINE point; an
OFFLINE one returns to ONLINE with count 0, and its hold cause is withdrawn. HOLD follows the causes, with HOLD CHANGED at a
change of its level. RANGE for an enable byte above 1 is the model's choice (log entry 17). -/
def Obligations.PointsAreConfiguredAndResumed : Prop :=
  let withdrawn := fun (t u : State) (i : Fin 4) (c : PointConfig) =>
    u.point i = ⟨c, false, 0⟩ ∧ (∀ j : Fin 4, j ≠ i → u.point j = t.point j)
      ∧ u.fh = { t.fh with offline := t.fh.offline.set i false, hold := u.fh.hold } ∧ u.fh.hold = u.fh.anyCause
      ∧ (u.fh.hold = t.fh.hold → u.ports = t.ports)
      ∧ (u.fh.hold ≠ t.fh.hold → ∀ q, (t.port q).role = .line → (t.port q).queue.length < 32 →
        (⟨t.pu.pitch, .holdChanged u.fh.hold u.fh.faults u.fh.offline u.fh.backlog⟩ : NoticeRecord) ∈ (u.port q).queue)
      ∧ (∀ q, PortGrow (t.port q) (u.port q))
      ∧ u.pu = t.pu ∧ u.rs = t.rs ∧ u.tl = t.tl ∧ u.fu = t.fu ∧ u.tr = t.tr ∧ u.cu = t.cu ∧ u.bq = t.bq ∧ u.cc = t.cc
      ∧ u.fresh = t.fresh ∧ u.pending = t.pending
  (∀ (p : PortId) (f : PointFields) (s t : State), s.reaches p (.pointConfig p f) t →
    let ok := f.point ≤ 3 ∧ f.enable ≤ 1 ∧ 1 ≤ f.inspection ∧ f.inspection ≤ 62 ∧ f.inspection + 1 ≤ f.deadline
      ∧ f.deadline ≤ 63 ∧ f.boundPort ≤ 3 ∧ f.policy ≤ 1 ∧ (f.trimGroup ≤ 2 ∨ f.trimGroup = 255) ∧ 1 ≤ f.limit
      ∧ f.limit ≤ 32
    let allowed := f.enable = 1 → f.deadline + 1 ≤ t.config.gate
      ∧ ∀ q : PortId, q.val = f.boundPort → (t.port q).role = .inspect
    (¬ok ∨ ¬allowed → exec (.pointConfig p f) s = .next (t.answerPort p (.refuse .range)))
    ∧ (ok → allowed → t.tl.ring ≠ [] → exec (.pointConfig p f) s = .next (t.answerPort p (.refuse .inUse)))
    ∧ ∀ i : Fin 4, i.val = f.point → ok → allowed → t.tl.ring = [] →
      ((t.point i).config.fields = { f with point := 0 } → exec (.pointConfig p f) s = .next (t.answerPort p .done))
      ∧ ((t.point i).config.fields ≠ { f with point := 0 } → ∃ (u : State) (c : PointConfig),
        exec (.pointConfig p f) s = .next (u.answerPort p .done) ∧ c.fields = { f with point := 0 } ∧ withdrawn t u i c))
  ∧ ∀ (p : PortId) (point : Nat) (s t : State), s.reaches p (.pointResume p point) t →
    (3 < point → exec (.pointResume p point) s = .next (t.answerPort p (.refuse .range)))
    ∧ ∀ i : Fin 4, i.val = point →
      let foreign := (t.port p).role = .inspect ∧ (t.point i).config.port ≠ p
      (foreign → exec (.pointResume p point) s = .next (t.answerPort p (.refuse .role)))
      ∧ (¬foreign → (t.point i).config.enable = false →
        exec (.pointResume p point) s = .next (t.answerPort p (.refuse .state)))
      ∧ (¬foreign → (t.point i).config.enable = true → (t.point i).offline = false →
        exec (.pointResume p point) s = .next (t.answerPort p .done))
      ∧ (¬foreign → (t.point i).config.enable = true → (t.point i).offline = true → ∃ u : State,
        exec (.pointResume p point) s = .next (u.answerPort p .done) ∧ withdrawn t u i (t.point i).config)

/-- A record that arrives at the inspection position of a point still OPEN: ARRIVAL to the bound port of an ONLINE point; TIMED
OUT with the policy applied, without a notice or a count, at an OFFLINE one. A record that arrives at the deadline position
still OPEN: TIMED OUT, VERDICT TIMEOUT under the policy REJECT, the count one more up to the limit, VERDICT MISSED to the
bound port with that count; when the count comes to the limit while ONLINE, the point goes OFFLINE, with POINT OFFLINE
(point, seq, limit) to the bound port and every LINE port, and its hold cause, with HOLD CHANGED where HOLD becomes ACTIVE.
No other record or port is reached. Any other status is left as it stands. The arrivals of an advance: at each enabled point
the inspection position, then the deadline; then the decision, then the count position: the order of the points and of the
count position is the model's choice (log entry 11). Where that sets two hold causes and makes HOLD ACTIVE, any may be set
first and HOLD CHANGED may name more than one of the standing causes: free values (log entry 9). -/
def Obligations.DeadlineTimesOutAnOpenRecord : Prop :=
  (∀ (s : State) (i : Fin 4),
    ((s.recordAt (s.point i).config.deadline = none ∨ ∃ r, s.recordAt (s.point i).config.deadline = some r
      ∧ r.status[i] ≠ .open_) → s.deadline i = s)
    ∧ ∀ r, s.recordAt (s.point i).config.deadline = some r → r.status[i] = .open_ →
      ∃ n, n = min (max (s.point i).config.limit (s.point i).timeouts) ((s.point i).timeouts + 1)
        ∧ (s.deadline i).recordAt (s.point i).config.deadline = some { r with
          status := r.status.set i .timedOut
          defects := if (s.point i).config.policy = .reject then addCode r.defects 4 else r.defects }
        ∧ ((s.deadline i).point i).timeouts = n ∧ ((s.deadline i).point i).config = (s.point i).config
        ∧ (((s.deadline i).point i).offline = true ↔ (s.point i).offline = true
          ∨ ((s.point i).timeouts < (s.point i).config.limit ∧ n = (s.point i).config.limit))
        ∧ (∀ k, k ≠ (s.point i).config.deadline → (s.deadline i).recordAt k = s.recordAt k)
        ∧ (s.deadline i).tl = { s.tl with ring := (s.deadline i).tl.ring }
        ∧ (∃ w x : State, w = s.notify (fun q _ => q == (s.point i).config.port)
            (.verdictMissed i r.seq r.run r.slot (s.point i).config.policy n)
          ∧ x = w.notify (fun q role => q == (s.point i).config.port || role == .line)
            (.pointOffline i r.seq (s.point i).config.limit)
          ∧ (((s.deadline i).point i).offline = (s.point i).offline →
            (s.deadline i).ports = w.ports ∧ (s.deadline i).fh = s.fh)
          ∧ ((s.point i).offline = false → ((s.deadline i).point i).offline = true →
            (s.deadline i).fh = { s.fh with offline := s.fh.offline.set i true, hold := true }
            ∧ (s.fh.hold = true → (s.deadline i).ports = x.ports)
            ∧ (s.fh.hold = false → (s.deadline i).ports = (x.notify (fun _ role => role == .line)
              (.holdChanged true s.fh.faults (s.fh.offline.set i true) s.fh.backlog)).ports)))
        ∧ (s.deadline i).fresh = s.fresh ∧ (s.deadline i).pending = s.pending
        ∧ (∀ j : Fin 4, j ≠ i → (s.deadline i).point j = s.point j)
        ∧ (s.deadline i).pu = s.pu ∧ (s.deadline i).rs = s.rs ∧ (s.deadline i).fu = s.fu ∧ (s.deadline i).tr = s.tr
        ∧ (s.deadline i).cu = s.cu ∧ (s.deadline i).bq = s.bq ∧ (s.deadline i).cc = s.cc
        ∧ (s.deadline i).births = s.births)
  ∧ (∀ (s : State) (i : Fin 4),
    ((s.recordAt (s.point i).config.inspection = none ∨ ∃ r, s.recordAt (s.point i).config.inspection = some r
      ∧ r.status[i] ≠ .open_) → s.inspectionArrival i = s)
    ∧ ∀ r, s.recordAt (s.point i).config.inspection = some r → r.status[i] = .open_ →
      ((s.point i).offline = false → s.inspectionArrival i = s.withPorts (s.inspectionArrival i).ports
        ∧ (∀ p, p ≠ (s.point i).config.port → (s.inspectionArrival i).port p = s.port p)
        ∧ PortGrow (s.port (s.point i).config.port) ((s.inspectionArrival i).port (s.point i).config.port)
        ∧ ((s.port (s.point i).config.port).queue.length < 32 →
          ((s.inspectionArrival i).port (s.point i).config.port).queue
            = (s.port (s.point i).config.port).queue ++ [⟨s.pu.pitch, .arrival i r.seq r.run r.slot⟩]))
      ∧ ((s.point i).offline = true →
        s.inspectionArrival i = s.withTl { s.tl with ring := (s.inspectionArrival i).tl.ring }
          ∧ (s.inspectionArrival i).recordAt (s.point i).config.inspection = some { r with
            status := r.status.set i .timedOut
            defects := if (s.point i).config.policy = .reject then addCode r.defects 4 else r.defects }
          ∧ ∀ k, k ≠ (s.point i).config.inspection → (s.inspectionArrival i).recordAt k = s.recordAt k))
  ∧ ∀ s : State,
    let at_ := fun (u : State) (i : Fin 4) =>
      if (u.point i).config.enable then (u.inspectionArrival i).deadline i else u
    let points := fun (u : State) (first : Fin 4) => at_ (at_ (at_ (at_ u first) (first + 1)) (first + 2)) (first + 3)
    let t := (points s 0).decideFate.countArrival
    (s.fh.hold = true ∨ newCauses s.fh t.fh < 2 → s.arrivals = t)
    ∧ (s.fh.hold = false → 2 ≤ newCauses s.fh t.fh → ∃ (first : Fin 4) (u v : State), u = s.withFresh (s.fresh + 1)
      ∧ (v = (points u first).decideFate.countArrival ∨ v = (points u.countArrival first).decideFate)
      ∧ s.arrivals = v.withPorts s.arrivals.ports
      ∧ (∀ p, PortGrow (s.port p) (s.arrivals.port p) ∧ (s.arrivals.port p).queue.length = (v.port p).queue.length)
      ∧ ∃ (off : Vector Bool 4) (backlog : Bool),
        (∀ i : Fin 4, off[i] = true → v.fh.offline[i] = true) ∧ (backlog = true → v.fh.backlog = true)
        ∧ ∀ p, s.arrivals.port p = { v.port p with
          queue := (v.port p).queue.take (s.port p).queue.length
            ++ ((v.port p).queue.drop (s.port p).queue.length).map fun r =>
              { r with notice := r.notice.withCauses off backlog } })
    ∧ (∀ (faults : FaultSet) (off more : Vector Bool 4) (backlog b : Bool),
      (Notice.holdChanged true faults off backlog).withCauses more b
        = .holdChanged true faults (Vector.ofFn fun i : Fin 4 => off[i] || more[i]) (backlog || b))
    ∧ ∀ (n : Notice) (more : Vector Bool 4) (b : Bool),
      (∀ faults off backlog, n ≠ .holdChanged true faults off backlog) → n.withCauses more b = n

/-! ### The Recipe Store -/

/-- PUT SEGMENTS: RANGE for its fields, IN USE for a live segment in the run, RANGE with the number of the lowest profile that
would not be ascending, in this order; otherwise OK: the run takes its values and nothing else changes. That the number takes
one byte is the model's choice (log entry 16). -/
def Obligations.SegmentsAreJudgedInThreeSteps : Prop :=
  ∀ (p : PortId) (first count : Nat) (segs : List (Nat × Nat)) (s t : State), s.reaches p (.putSegments p first count segs) t →
    let ok := 1 ≤ count ∧ count ≤ 12 ∧ first + count ≤ 256 ∧ segs.length = count
      ∧ ∀ g ∈ segs, g.1 ≤ 4095 ∧ 1 ≤ g.2 ∧ g.2 ≤ 4095
    let live := ∃ i, first ≤ i ∧ i < first + count ∧ t.liveSegment i
    (¬ok → exec (.putSegments p first count segs) s = .next (t.answerPort p (.refuse .range)))
    ∧ (ok → live → exec (.putSegments p first count segs) s = .next (t.answerPort p (.refuse .inUse)))
    ∧ (ok → ¬live → ∃ pool : Vector Segment 256,
      (∀ (i : Nat) (g : Nat × Nat), segs[i]? = some g → pool[first + i]? = some ⟨g.1, g.2⟩)
        ∧ (∀ i, i < first ∨ first + count ≤ i → pool[i]? = t.rs.segments[i]?)
        ∧ (∀ q : ProfileId, (t.rs.profiles[q]).touches first count → ¬(t.rs.profiles[q]).strictlyAscends pool →
          (∀ r : ProfileId, r < q → (t.rs.profiles[r]).touches first count → (t.rs.profiles[r]).strictlyAscends pool) →
          exec (.putSegments p first count segs) s = .next (t.answerPort p ⟨.range, byte1 q.val, none⟩))
        ∧ ((∀ q : ProfileId, (t.rs.profiles[q]).touches first count → (t.rs.profiles[q]).strictlyAscends pool) →
          exec (.putSegments p first count segs) s
            = .next ((t.withRs { t.rs with segments := pool }).answerPort p .done)))

/-- PUT PROFILE: RANGE for its fields, IN USE for a live profile, RANGE for a range that is not strictly ascending (skipped for
count 0), in this order; otherwise OK: the profile takes first index, count and tag, undefined with first index 0 for count 0,
and nothing else changes. -/
def Obligations.ProfileIsJudgedInThreeSteps : Prop :=
  ∀ (p : PortId) (n first count : Nat) (tag : Option (Vector Byte 8)) (s t : State),
    s.reaches p (.putProfile p n first count tag) t →
    let ok := n ≤ 63 ∧ first ≤ 255 ∧ count ≤ 8 ∧ (1 ≤ count → first + count ≤ 256)
    (¬ok → exec (.putProfile p n first count tag) s = .next (t.answerPort p (.refuse .range)))
    ∧ ∀ q : ProfileId, q.val = n → ok →
      (t.liveProfile q → exec (.putProfile p n first count tag) s = .next (t.answerPort p (.refuse .inUse)))
      ∧ (¬t.liveProfile q → 1 ≤ count → ¬(⟨first, count, tag⟩ : Profile).strictlyAscends t.rs.segments →
        exec (.putProfile p n first count tag) s = .next (t.answerPort p (.refuse .range)))
      ∧ (¬t.liveProfile q → count = 0 ∨ (⟨first, count, tag⟩ : Profile).strictlyAscends t.rs.segments →
        exec (.putProfile p n first count tag) s = .next ((t.withRs { t.rs with
          profiles := t.rs.profiles.set q ⟨if count = 0 then 0 else first, count, tag⟩ }).answerPort p .done))

/-- PUT RECIPE: RANGE for its fields, IN USE for a live slot, RANGE for a map entry that names an undefined profile, in this
order; otherwise OK: the slot holds the recipe with every field as written, or becomes EMPTY, and nothing else changes. EMPTY
with the fields of a recipe is answered RANGE by the model's choice (log entry 27). -/
def Obligations.RecipeIsJudgedInThreeSteps : Prop :=
  ∀ (p : PortId) (slot content : Nat) (recipe : Option RecipeFields) (s t : State),
    s.reaches p (.putRecipe p slot content recipe) t →
    let good := fun f : RecipeFields => (∀ o : OutId, f.outputMap[o] ≤ 63 ∨ f.outputMap[o] = 255) ∧ f.rejectMask < 65536
      ∧ f.skipMask < 65536 ∧ f.points < 16 ∧ 10 ≤ f.batchSize ∧ f.batchSize ≤ 5000 ∧ f.minSpeed ≤ 2400 ∧ f.autoSample ≤ 9999
    let ok := slot ≤ 15 ∧ ((content = 0 ∧ recipe = none) ∨ (content = 1 ∧ ∃ f, recipe = some f ∧ good f))
    (¬ok → exec (.putRecipe p slot content recipe) s = .next (t.answerPort p (.refuse .range)))
    ∧ ∀ j : SlotId, j.val = slot → ok →
      (t.liveSlot j → exec (.putRecipe p slot content recipe) s = .next (t.answerPort p (.refuse .inUse)))
      ∧ (¬t.liveSlot j → recipe = none → exec (.putRecipe p slot content recipe) s = .next
        ((t.withRs { t.rs with slots := t.rs.slots.set j none }).answerPort p .done))
      ∧ ∀ f, ¬t.liveSlot j → recipe = some f →
        ((∃ (o : OutId) (q : ProfileId), f.outputMap[o] = q.val ∧ (t.rs.profiles[q]).count = 0) →
          exec (.putRecipe p slot content recipe) s = .next (t.answerPort p (.refuse .range)))
        ∧ ((∀ (o : OutId) (q : ProfileId), f.outputMap[o] = q.val → (t.rs.profiles[q]).count ≠ 0) → ∃ r : Recipe,
          (f.jobCode < 4294967296 → r.fields = f)
            ∧ exec (.putRecipe p slot content recipe) s = .next
              ((t.withRs { t.rs with slots := t.rs.slots.set j (some r) }).answerPort p .done))

/-- No command but a reset changes a recipe in a live slot, a live profile or a live segment. -/
def Obligations.NoCommandChangesALiveItem : Prop :=
  ∀ (c : Instr) (s t : State), exec c s = .next t → (∀ pins, c ≠ .powerOn pins ∧ c ≠ .resetPin pins) →
    (∀ j : SlotId, s.liveSlot j → t.recipe j = s.recipe j)
    ∧ (∀ p : ProfileId, s.liveProfile p → t.rs.profiles[p] = s.rs.profiles[p])
    ∧ ∀ i : Nat, s.liveSegment i → t.rs.segments[i]? = s.rs.segments[i]?

/-! ### Job runs and tracking -/

/-- NEXT JOB: the first row of the table of R156 that holds gives the answer, and a refused command changes nothing; on OK the
job is armed with its slot and mode, births since arming 0, last counted birth absent and deferral reported no, an armed slot
is live, and nothing else changes. -/
def Obligations.NextJobArmsAJob : Prop :=
  ∀ (p : PortId) (slot mode : Nat) (n : Option Nat) (s t : State), s.reaches p (.nextJob p slot mode n) t →
    let ok := (slot ≤ 15 ∨ slot = 255) ∧ ((mode = 0 ∧ n = none) ∨ (mode = 1 ∧ ∃ k, n = some k ∧ 1 ≤ k ∧ k ≤ 65535))
    (¬ok → exec (.nextJob p slot mode n) s = .next (t.answerPort p (.refuse .range)))
    ∧ (ok → t.cc.armed ≠ none → exec (.nextJob p slot mode n) s = .next (t.answerPort p (.refuse .armed)))
    ∧ (ok → t.cc.armed = none → t.cc.transition ≠ none →
      exec (.nextJob p slot mode n) s = .next (t.answerPort p (.refuse .pending)))
    ∧ (ok → t.cc.armed = none → t.cc.transition = none → (∃ j : SlotId, j.val = slot ∧ t.recipe j = none) →
      exec (.nextJob p slot mode n) s = .next (t.answerPort p (.refuse .emptySlot)))
    ∧ (ok → t.cc.armed = none → t.cc.transition = none → (∀ j : SlotId, j.val = slot → t.recipe j ≠ none) →
      ∃ (j : Option SlotId) (m : JobMode), (slot = 255 → j = none) ∧ (∀ i : SlotId, i.val = slot → j = some i)
        ∧ (mode = 0 → m = .immediate) ∧ (∀ k, mode = 1 → n = some k → m = .afterBirths k)
        ∧ exec (.nextJob p slot mode n) s = .next ((t.withCc { t.cc with
          armed := some ⟨j, m⟩, births := 0, lastCounted := none, deferred := false }).answerPort p .done)
        ∧ ∀ i : SlotId, j = some i → (t.withCc { t.cc with
          armed := some ⟨j, m⟩, births := 0, lastCounted := none, deferred := false }).liveSlot i)

/-- CANCEL JOB: NOT ARMED with nothing armed; otherwise OK with births since arming as they stood, the job disarmed, and
nothing else changed. CLOSE BATCH: PENDING with the forced close pending, FULL with 15 entries or more; otherwise OK with the
number and the good count of the open batch, the flag SET, and nothing else changed. -/
def Obligations.CancelJobAndCloseBatchAnswer : Prop :=
  (∀ (p : PortId) (s t : State), s.reaches p (.cancelJob p) t →
    (t.cc.armed = none → exec (.cancelJob p) s = .next (t.answerPort p (.refuse .notArmed)))
    ∧ (t.cc.armed ≠ none → exec (.cancelJob p) s = .next ((t.withCc { t.cc with
      armed := none, births := 0, lastCounted := none, deferred := false }).answerPort p
        (.okWith (byte2 t.cc.births)))))
  ∧ ∀ (p : PortId) (s t : State), s.reaches p (.closeBatch p) t →
    (t.cu.forcePending = true → exec (.closeBatch p) s = .next (t.answerPort p (.refuse .pending)))
    ∧ (t.cu.forcePending = false → 15 ≤ t.bq.entries.length →
      exec (.closeBatch p) s = .next (t.answerPort p (.refuse .full)))
    ∧ (t.cu.forcePending = false → t.bq.entries.length < 15 →
      exec (.closeBatch p) s = .next ((t.withCu { t.cu with forcePending := true }).answerPort p
        (.okWith (byte4 t.cu.batch.number.toNat ++ byte4 t.cu.batch.good.toNat))))

/-- The switch, at a pitch advance that finds a job armed whose condition holds and fewer than 15 entries in the Box Queue: the
job is cleared, an armed slot starts a run with the next number, the recipe's job code and this advance's newborn as its
first, slot NONE starts none, and the newborn belongs to what is then current. The previous birth of a run becomes last of
run and its run the ending run of a pending transition; where a TRACK CLEAR removed it, its run completes at once with RUN
ENDED. The previous birth is the record at position 0 before the advance (log entry 25, DEDUCED). RUN STARTED carries the
new run, slot and job code or NONE, the first seq, and the ending run with its last seq; the seq at slot NONE is the model's
choice (log entry 16). With its condition not met, or with 15 entries or more, the job stays armed, no run starts, and a
birth of the current run is counted; with its condition met the switch is deferred, and the first deferral sends SWITCH
DEFERRED, with the births before this advance's by the model's choice (log entry 30). No probe with a BLANK effect pending:
such an effect of the same event may withdraw a counted birth first. What a deferral and the counting of a birth do. With
nothing armed the switch test does nothing, and the newborn belongs to the run that stood. -/
def Obligations.SwitchStartsTheArmedJob : Prop :=
  let unblanked := fun s : State => ∀ i : Fin 6, (s.probe i).config.enable = true → (s.probe i).config.kind = .blank →
    (s.probe i).seenBad = false
  let due := fun (s : State) (job : ArmedJob) => job.mode = .immediate
    ∨ ∃ n, job.mode = .afterBirths n ∧ (n ≤ s.cc.births ∨ s.cc.current = none)
  (∀ (via : Stimulus) (job : ArmedJob) (s : State), s.advances via → s.config.good → s.runLaw → s.boxLaw →
    s.cc.armed = some job → s.bq.entries.length < 15 →
    (job.mode = .immediate ∨ ∃ n, job.mode = .afterBirths n
      ∧ (n < s.cc.births ∨ s.cc.current = none ∨ (n = s.cc.births ∧ unblanked s))) →
    ∃ t : State, exec (.switch via) s = .next t
      ∧ t.cc.armed = none ∧ t.cc.births = 0 ∧ t.cc.lastCounted = none ∧ t.cc.deferred = false
      ∧ (job.slot = none → t.cc.current = none ∧ t.tl.current = none ∧ t.tl.nextRun = s.tl.nextRun)
      ∧ (∀ (j : SlotId) (r : Recipe), job.slot = some j → s.recipe j = some r →
        t.cc.current = some ⟨s.tl.nextRun, j⟩ ∧ t.tl.nextRun = s.tl.nextRun + 1
          ∧ ∃ rr, t.tl.current = some rr ∧ rr.number = s.tl.nextRun ∧ rr.slot = j ∧ rr.jobCode = r.jobCode
            ∧ rr.firstSeq = s.tl.nextSeq ∧ rr.lastSeq = none)
      ∧ (∀ q, t.recordAt 0 = some q → q.seq = s.tl.nextSeq ∧ q.run = t.cc.current.map CurrentRun.number
        ∧ q.slot = t.cc.current.map CurrentRun.slot)
      ∧ (∀ (prev : Record) (run : Word32), s.recordAt 0 = some prev → prev.run = some run →
        t.cc.transition = some ⟨run, prev.seq⟩
          ∧ (∃ rr, t.tl.ending = some rr ∧ rr.number = run ∧ rr.lastSeq = some prev.seq)
          ∧ ∃ q, t.recordAt 1 = some q ∧ q.seq = prev.seq ∧ q.lastOfRun = true)
      ∧ (s.recordAt 0 = none ∨ (∃ prev, s.recordAt 0 = some prev ∧ prev.run = none) →
        t.cc.transition = none ∧ t.tl.ending = none)
      ∧ (∀ p, (s.port p).role = .line → (s.port p).queue.length < 30 →
        (job.slot = none →
          (⟨s.pu.pitch + 1, .runStarted none s.tl.nextSeq t.cc.transition⟩ : NoticeRecord) ∈ (t.port p).queue)
        ∧ ∀ (j : SlotId) (r : Recipe), job.slot = some j → s.recipe j = some r →
          (⟨s.pu.pitch + 1, .runStarted (some (⟨s.tl.nextRun, j⟩, r.jobCode)) s.tl.nextSeq t.cc.transition⟩ : NoticeRecord)
            ∈ (t.port p).queue)
      ∧ ∀ cur, s.recordAt 0 = none → s.tl.current = some cur → ∀ p, (s.port p).role = .line ∨ (s.port p).role = .pack →
        (s.port p).queue.length < 31 →
        (⟨s.pu.pitch + 1, .runEnded { cur with lastSeq := some (s.tl.nextSeq - 1) }⟩ : NoticeRecord) ∈ (t.port p).queue)
  ∧ (∀ (via : Stimulus) (job : ArmedJob) (s : State), s.advances via → unblanked s → s.cc.armed = some job →
    ¬due s job ∨ 15 ≤ s.bq.entries.length →
    ∃ t : State, exec (.switch via) s = .next t
      ∧ t.cc = { s.cc with
        births := if s.cc.current = none then s.cc.births else min 65535 (s.cc.births + 1)
        lastCounted := if s.cc.current = none then s.cc.lastCounted else some s.tl.nextSeq
        deferred := t.cc.deferred
        transition := t.cc.transition }
      ∧ (t.cc.deferred = true ↔ s.cc.deferred = true ∨ due s job)
      ∧ t.tl.nextRun = s.tl.nextRun
      ∧ (due s job → s.cc.deferred = false → ∀ p, (s.port p).role = .line → (s.port p).queue.length < 31 →
        (⟨s.pu.pitch + 1, .switchDeferred job.slot job.mode s.cc.births s.bq.entries.length⟩ : NoticeRecord)
          ∈ (t.port p).queue))
  ∧ (∀ (job : ArmedJob) (s : State), (s.cc.deferred = true → s.deferSwitch job = s)
    ∧ (s.cc.deferred = false → s.deferSwitch job = (s.notify (fun _ r => r == .line)
      (.switchDeferred job.slot job.mode s.cc.births s.bq.entries.length)).withCc { s.cc with deferred := true }))
  ∧ (∀ (r : Record) (s : State),
    let counted := s.cc.armed ≠ none ∧ r.void = false ∧ r.run ≠ none ∧ r.run = s.cc.current.map CurrentRun.number
    (counted → s.countBirth r = s.withCc { s.cc with
      births := min 65535 (s.cc.births + 1), lastCounted := some r.seq })
    ∧ (¬counted → s.countBirth r = s))
  ∧ (∀ (s : State) (slot : Option SlotId),
    (∀ cur, s.recordAt 0 = none → s.tl.current = some cur → s.endCurrent
      = ((s.notify (fun _ r => r == .line || r == .pack) (.runEnded { cur with lastSeq := some (s.tl.nextSeq - 1) })).withTl
        { s.tl with current := none }).withCc { s.cc with current := none })
    ∧ ∃ (v : State) (started : Option (CurrentRun × Word32)),
      v = (match slot with
        | some j => s.endCurrent.openRun j
        | none => s.endCurrent)
      ∧ (slot = none → started = none)
      ∧ (∀ j r, slot = some j → s.recipe j = some r → started = some (⟨s.tl.nextRun, j⟩, r.jobCode))
      ∧ s.takeSwitch slot = (v.notify (fun _ r => r == .line) (.runStarted started s.tl.nextSeq v.cc.transition)).withCc
        { v.cc with armed := none, births := 0, lastCounted := none, deferred := false })
  ∧ (∀ (s : State), (s.cc.armed = none → s.switchTest = s)
    ∧ ∀ job, s.cc.armed = some job →
      (due s job → s.bq.entries.length < 15 → s.switchTest = s.takeSwitch job.slot)
      ∧ (due s job → 15 ≤ s.bq.entries.length → s.switchTest = s.deferSwitch job)
      ∧ (¬due s job → s.switchTest = s))
  ∧ ∀ (via : Stimulus) (s : State), s.advances via → s.cc.armed = none →
    ∃ (t : State) (q : Record), exec (.switch via) s = .next t
      ∧ t.cc = { s.cc with births := t.cc.births, lastCounted := t.cc.lastCounted, transition := t.cc.transition }
      ∧ t.tl.nextRun = s.tl.nextRun
      ∧ t.tl.current.map (fun r => (r.number, r.slot, r.jobCode, r.firstSeq, r.lastSeq))
        = s.tl.current.map (fun r => (r.number, r.slot, r.jobCode, r.firstSeq, r.lastSeq))
      ∧ t.recordAt 0 = some q ∧ q.seq = s.tl.nextSeq ∧ q.run = s.cc.current.map CurrentRun.number
      ∧ q.slot = s.cc.current.map CurrentRun.slot ∧ (s.cc.current = none → q.void = true)

/-- SPLICE, PULL SAMPLE and FORCE REJECT: RANGE, NO RECORD and LATE as R60 to R62 say; otherwise OK with the countdown set, the
pulls added and answered, FORCED in the defects of the record, and nothing else changed. -/
def Obligations.SplicePullsAndForcedRejects : Prop :=
  (∀ (p : PortId) (n : Nat) (s t : State), s.reaches p (.splice p n) t →
    (n < 1 ∨ 64 < n → exec (.splice p n) s = .next (t.answerPort p (.refuse .range)))
    ∧ (1 ≤ n → n ≤ 64 → exec (.splice p n) s = .next ((t.withTl { t.tl with splice := n }).answerPort p .done)))
  ∧ (∀ (p : PortId) (n : Nat) (s t : State), s.reaches p (.pullSample p n) t →
    (n < 1 ∨ 255 < n → exec (.pullSample p n) s = .next (t.answerPort p (.refuse .range)))
    ∧ (1 ≤ n → n ≤ 255 → exec (.pullSample p n) s = .next
      ((t.withTl { t.tl with pulls := min 255 (t.tl.pulls + n) }).answerPort p
        (.okWith (byte1 (min 255 (t.tl.pulls + n)))))))
  ∧ ∀ (p : PortId) (seq : Nat) (s t : State), s.reaches p (.forceReject p seq) t →
    (t.resolve (BitVec.ofNat 32 seq) = .newer →
      exec (.forceReject p seq) s = .next (t.answerPort p (.refuse .noRecord)))
    ∧ (t.resolve (BitVec.ofNat 32 seq) = .gone → exec (.forceReject p seq) s = .next (t.answerPort p (.refuse .late)))
    ∧ ∀ (pos : Nat) (r : Record), t.resolve (BitVec.ofNat 32 seq) = .found pos r →
      (r.fate ≠ .undecided → exec (.forceReject p seq) s = .next (t.answerPort p (.refuse .late)))
      ∧ (r.fate = .undecided → ∃ u : State, exec (.forceReject p seq) s = .next (u.answerPort p .done)
        ∧ u.recordAt pos = some { r with defects := addCode r.defects 3 }
        ∧ (∀ i, i ≠ pos → u.recordAt i = t.recordAt i) ∧ u = t.withTl { t.tl with ring := u.tl.ring })

/-- The decision of a record that arrives at the decision position: DISTURBED gives REJECT, then VOID gives VOID, then a code of
the slot's reject mask gives REJECT; a would-be-good record is SAMPLE for a pending pull or at the auto-sample interval, else
GOOD, with the pulls and the counter of its run record moved. A fate once given is not given again. -/
def Obligations.FateIsDecidedByTheFirstTest : Prop :=
  ∀ (s : State) (r : Record), s.recordAt (s.config.gate - 1) = some r →
    (r.fate ≠ .undecided → s.decideFate = s)
    ∧ (r.fate = .undecided → ∃ (f : Fate) (t : State), t = s.decideFate
      ∧ t.recordAt (s.config.gate - 1) = some { r with fate := f }
      ∧ (∀ i, i ≠ s.config.gate - 1 → t.recordAt i = s.recordAt i)
      ∧ t = s.withTl { s.tl with ring := t.tl.ring, pulls := t.tl.pulls, current := t.tl.current, ending := t.tl.ending }
      ∧ (hasCode r.defects 2 = true → f = .reject)
      ∧ (hasCode r.defects 2 = false → r.void = true → f = .void)
      ∧ (∀ j, hasCode r.defects 2 = false → r.void = false → s.recipeOf r = some j →
        ((∃ c, hasCode r.defects c = true ∧ hasCode j.rejectMask c = true) → f = .reject)
        ∧ ∀ (run : Word32) (rr : RunRecord), (∀ c, hasCode r.defects c = true → hasCode j.rejectMask c = false) →
          r.run = some run → s.runRecordOf run = some rr →
          let counter := if 1 ≤ j.autoSample then rr.autoCount + 1 else rr.autoCount
          let drawn := 0 < s.tl.pulls ∨ (0 < j.autoSample ∧ counter = j.autoSample)
          (drawn → f = .sample ∧ t.tl.pulls = s.tl.pulls - 1
            ∧ (t.runRecordOf run).map RunRecord.autoCount = some (if counter = j.autoSample then 0 else counter))
          ∧ (¬drawn → f = .good ∧ t.tl.pulls = s.tl.pulls
            ∧ (t.runRecordOf run).map RunRecord.autoCount = some counter))
      ∧ ((hasCode r.defects 2 = true ∨ r.void = true) → t.tl.pulls = s.tl.pulls ∧ t.tl.current = s.tl.current
        ∧ t.tl.ending = s.tl.ending))

/-- The newborn of a birth: the seq of the sequence counter, the run and slot that Changeover Control gives, the pitch count,
VOID with no current run; SPLICE, RAMP and DISTURBED as R47 says; a required point OPEN, or TIMED OUT with its policy applied
where it is disabled (R110). The ring takes it at position 0 and the splice countdown falls by one. -/
def Obligations.NewbornTakesItsMarks : Prop :=
  ∀ s : State, ∃ r : Record,
    let required := fun i : Fin 4 => ∃ c j, s.cc.current = some c ∧ s.recipe c.slot = some j ∧ j.points[i] = true
    s.birth.tl = { s.tl with
        ring := r :: s.tl.ring.take (s.config.lineLength - 1)
        nextSeq := s.tl.nextSeq + 1
        born := true
        splice := s.tl.splice - 1 }
      ∧ r.seq = s.tl.nextSeq ∧ r.run = s.cc.current.map CurrentRun.number ∧ r.slot = s.cc.current.map CurrentRun.slot
      ∧ r.birthPitch = s.pu.pitch ∧ r.deposit = none ∧ r.fate = .undecided ∧ r.closing = false ∧ r.batch = none
      ∧ r.lastOfRun = false ∧ (r.void = true ↔ s.cc.current = none)
      ∧ (∀ i : Fin 4, (¬required i → r.status[i] = .notRequired)
        ∧ (required i → r.status[i] = if (s.point i).config.enable then .open_ else .timedOut))
      ∧ ∀ c : Code, hasCode r.defects c = true ↔ (c = 1 ∧ 0 < s.tl.splice)
        ∨ (c = 0 ∧ ∃ u j, s.cc.current = some u ∧ s.recipe u.slot = some j ∧ s.pu.speed < j.minSpeed)
        ∨ (c = 2 ∧ s.fh.faults ≠ ⟨false, false, false⟩)
        ∨ (c = 4 ∧ ∃ i : Fin 4, required i ∧ (s.point i).config.enable = false ∧ (s.point i).config.policy = .reject)

/-- The off-angle of a probe is passed: with no record at its position, or one it has evaluated already, nothing changes;
otherwise the record is evaluated, the flag is cleared, and a flag that was set gives the effect of the kind: the code, or
VOID with OPEN statuses made NOT REQUIRED and the last counted birth withdrawn. No other record and no other probe changes. The
passing of points: every enabled probe whose off-angle lies among them, in the order of the off-angles, each after the
judgements up to the point before it, then the judgements up to the last point (that order is log entry 12, the model's
reading). -/
def Obligations.OffAngleEvaluatesOnce : Prop :=
  (∀ (s : State) (i : Fin 6),
    (s.recordAt (s.probe i).config.position = none → s.passOffAngle i = s)
    ∧ ∀ r, s.recordAt (s.probe i).config.position = some r →
      ((s.probe i).lastEval = some r.seq → s.passOffAngle i = s)
      ∧ ((s.probe i).lastEval ≠ some r.seq → ∃ (t : State) (q : Record), t = s.passOffAngle i
        ∧ t.probe i = { s.probe i with lastEval := some r.seq, seenBad := false }
        ∧ (∀ j : Fin 6, j ≠ i → t.probe j = s.probe j)
        ∧ t.recordAt (s.probe i).config.position = some q
        ∧ (∀ k, k ≠ (s.probe i).config.position → t.recordAt k = s.recordAt k)
        ∧ ((s.probe i).seenBad = false → q = r)
        ∧ (∀ code, (s.probe i).seenBad = true → (s.probe i).config.kind = .defect code →
          q = { r with defects := addCode r.defects code })
        ∧ ((s.probe i).seenBad = true → (s.probe i).config.kind = .blank →
          (r.void = true → q = r)
          ∧ (r.void = false → q = { r with void := true, status := q.status }
            ∧ ∀ k : Fin 4, q.status[k] = if r.status[k] = .open_ then .notRequired else r.status[k]))
        ∧ ((s.probe i).seenBad = true ∧ (s.probe i).config.kind = .blank ∧ r.void = false ∧ r.run ≠ none
            ∧ r.run = s.cc.current.map CurrentRun.number ∧ s.cc.lastCounted = some r.seq ∧ 0 < s.cc.births →
          t.cc = { s.cc with births := s.cc.births - 1, lastCounted := none })
        ∧ ((s.probe i).seenBad = false ∨ (s.probe i).config.kind ≠ .blank ∨ r.void = true ∨ r.run = none
            ∨ r.run ≠ s.cc.current.map CurrentRun.number ∨ s.cc.lastCounted ≠ some r.seq ∨ s.cc.births = 0 →
          t.cc = s.cc)
        ∧ t = (s.withTl { s.tl with ring := t.tl.ring, probes := t.tl.probes }).withCc t.cc))
  ∧ ∀ (s : State) (lo hi ahead : Nat), ∃ l : List (Fin 6), l.Nodup
    ∧ (∀ i : Fin 6, i ∈ l ↔ (s.probe i).config.enable = true ∧ lo < (s.probe i).config.offAngle
      ∧ (s.probe i).config.offAngle ≤ hi)
    ∧ l.Pairwise (fun i j => (s.probe i).config.offAngle ≤ (s.probe j).config.offAngle)
    ∧ s.passForward lo hi ahead = (l.foldl (fun u i => (u.judgeAll ((u.probe i).config.offAngle - 1)
        (ahead + (hi + 1 - (u.probe i).config.offAngle))).passOffAngle i) s).judgeAll hi ahead

/-- TRACK CLEAR: STATE unless STOPPED, FULL with 16 entries and a good envelope in the open batch; otherwise OK with the number
of records that leave, and the ring, the pulls, the splice countdown, the seen-bad flags, the occurrences, the pulses, b, the
forced-close flag and an ending run are cleared, and the open batch is closed with reason CLEAR or discarded. Its notices: BATCH
CLOSED, what the test of the backlog makes, then RUN ENDED of an ending run with the counts it has; that RUN ENDED comes after
HOLD CHANGED at a LINE port is the model's choice (log entry 11). -/
def Obligations.TrackClearEmptiesTheRing : Prop :=
  ∀ (p : PortId) (s t : State), s.reaches p (.trackClear p) t →
    (t.pu.lineState ≠ .stopped → exec (.trackClear p) s = .next (t.answerPort p (.refuse .state)))
    ∧ (t.pu.lineState = .stopped → 16 ≤ t.bq.entries.length → t.cu.batch.good ≠ 0 →
      exec (.trackClear p) s = .next (t.answerPort p (.refuse .full)))
    ∧ (t.pu.lineState = .stopped → t.bq.entries.length < 16 ∨ t.cu.batch.good = 0 →
      (t.cu.batch.good = 0 ↔ t.cu.batch.owner = none) → ∃ u : State,
      exec (.trackClear p) s = .next (u.answerPort p (.okWith (byte1 t.tl.ring.length)))
        ∧ u.pu = { t.pu with backlash := false } ∧ u.rs = t.rs ∧ u.tr = t.tr ∧ u.iu = t.iu
        ∧ u.tl = { t.tl with ring := [], ending := none, splice := 0, pulls := 0, probes := u.tl.probes }
        ∧ (∀ i : Fin 6, u.probe i = { t.probe i with seenBad := false })
        ∧ (∀ o : OutId, u.output o = { t.output o with armed := [], pulses := [] })
        ∧ u.cc = { t.cc with transition := u.cc.transition } ∧ (t.runLaw → u.cc.transition = none)
        ∧ (t.tl.ending = none → u.cc = t.cc) ∧ (t.tl.ending ≠ none → u.cc.transition = none)
        ∧ (∃ w : State, u.bq = w.bq ∧ u.fh = w.fh
          ∧ (t.cu.batch.owner = none → w = t)
          ∧ (t.cu.batch.owner ≠ none → w = ((t.withBq { t.bq with entries := u.bq.entries }).notify (fun _ r => r == .pack)
            (.batchClosed t.cu.batch.number .clear t.cu.batch.good)).testBacklog)
          ∧ (t.tl.ending = none → u.ports = w.ports)
          ∧ ∀ rr, t.tl.ending = some rr →
            u.ports = (w.notify (fun _ r => r == .line || r == .pack) (.runEnded rr)).ports)
        ∧ (t.cu.batch.owner = none → u.cu = ⟨⟨t.cu.nextBatch, none, 0, 0, 0, 0, false⟩, t.cu.nextBatch, false⟩
          ∧ u.bq = t.bq)
        ∧ (∀ o, t.cu.batch.owner = some o →
          u.cu = ⟨⟨t.cu.nextBatch + 1, none, 0, 0, 0, 0, false⟩, t.cu.nextBatch + 1, false⟩
            ∧ u.bq.entries = t.bq.entries ++ [⟨t.cu.batch.number, o, t.cu.batch.good, t.cu.batch.reject,
              t.cu.batch.sample, t.cu.batch.suspect, .clear, t.cu.batch.overrun⟩])
        ∧ u.fh = { t.fh with backlog := u.fh.backlog, hold := u.fh.hold }
        ∧ u.fresh = t.fresh ∧ u.pending = t.pending ∧ ∀ q, PortGrow (t.port q) (u.port q))

/-- FAULT CLEAR is always OK with the latched faults and raise counts as they stood; with none latched nothing changes, with
some latched every latch and raise count is cleared and HOLD follows the causes that stand, with HOLD CHANGED at a change of its
level and no notice otherwise. Nothing else changes: records keep DISTURBED, and a birth after it is born without. -/
def Obligations.FaultClearRemovesTheFaults : Prop :=
  ∀ (p : PortId) (s t : State), s.reaches p (.faultClear p) t → ∃ (u : State) (latched : Nat),
    exec (.faultClear p) s = .next (u.answerPort p (.okWith (byte1 latched ++ byte1 t.fh.reverseOverrun.count
        ++ byte1 t.fh.indexSlip.count ++ byte1 t.fh.quadratureError.count)))
      ∧ latched = (if t.fh.reverseOverrun.latched then 1 else 0) + (if t.fh.indexSlip.latched then 2 else 0)
        + (if t.fh.quadratureError.latched then 4 else 0)
      ∧ (latched = 0 → u = t)
      ∧ (latched ≠ 0 → u.fh = ⟨⟨false, 0⟩, ⟨false, 0⟩, ⟨false, 0⟩, t.fh.offline, t.fh.backlog, u.fh.hold⟩
        ∧ (u.fh.hold = true ↔ (∃ i : Fin 4, t.fh.offline[i] = true) ∨ t.fh.backlog = true)
        ∧ (u.fh.hold ≠ t.fh.hold → ∀ q, (t.port q).role = .line → (t.port q).queue.length < 32 →
          (⟨t.pu.pitch, .holdChanged u.fh.hold ⟨false, false, false⟩ t.fh.offline t.fh.backlog⟩ : NoticeRecord)
            ∈ (u.port q).queue))
      ∧ (u.fh.hold = t.fh.hold → u.ports = t.ports)
      ∧ (∀ r, u.birth.recordAt 0 = some r → hasCode r.defects 2 = false)
      ∧ u = (t.withFh u.fh).withPorts u.ports ∧ ∀ q, PortGrow (t.port q) (u.port q)

/-! ### Verdicts, batches, boxes -/

/-- VERDICT with valid fields: the first row of the table of R114 that holds gives the answer, and a verdict answered by any row
changes nothing; one that meets none is accepted, of an OFFLINE point as of an ONLINE one: its record stands at a position
from I to D − 1 with status OPEN, and takes the status, the codes and the deposit index; M is handed to the trim group the
point feeds, which takes the measurement in the same event, GUM ABSENT included; the point's count becomes 0. PASS 0 and
FAIL 1, and RANGE for a result byte above 1, are the model's choices (log entries 16 and 17), and so is the reading of R106
beside R114 and R122 (log entry 29). -/
def Obligations.VerdictIsJudgedByTheFirstRow : Prop :=
  ∀ (p : PortId) (point seq result m : Nat) (codes : List Nat) (s t : State),
    s.reaches p (.verdict p point seq result m codes) t →
    let ok := point ≤ 3 ∧ result ≤ 1 ∧ codes.length ≤ 16 ∧ (∀ c ∈ codes, c ≤ 15) ∧ (m ≤ 127 ∨ m = 255)
      ∧ (result = 0 → codes = [])
    (¬ok → exec (.verdict p point seq result m codes) s = .next (t.answerPort p (.refuse .range)))
    ∧ ∀ i : Fin 4, i.val = point → ok →
      let u := t.point i
      (u.config.port ≠ p → exec (.verdict p point seq result m codes) s = .next (t.answerPort p (.refuse .role)))
      ∧ (u.config.port = p → u.config.enable = false →
        exec (.verdict p point seq result m codes) s = .next (t.answerPort p (.refuse .state)))
      ∧ (u.config.port = p → u.config.enable = true → t.resolve (BitVec.ofNat 32 seq) = .newer →
        exec (.verdict p point seq result m codes) s = .next (t.answerPort p (.refuse .noRecord)))
      ∧ (u.config.port = p → u.config.enable = true → t.resolve (BitVec.ofNat 32 seq) = .gone →
        exec (.verdict p point seq result m codes) s = .next (t.answerPort p (.refuse .late)))
      ∧ ∀ (pos : Nat) (r : Record), u.config.port = p → u.config.enable = true →
        t.resolve (BitVec.ofNat 32 seq) = .found pos r →
        (r.status[i] = .notRequired →
          exec (.verdict p point seq result m codes) s = .next (t.answerPort p (.refuse .notExpected)))
        ∧ (r.status[i] ≠ .notRequired → pos < u.config.inspection →
          exec (.verdict p point seq result m codes) s = .next (t.answerPort p (.refuse .early)))
        ∧ (u.config.inspection ≤ pos → r.status[i] = .passed ∨ r.status[i] = .failed →
          exec (.verdict p point seq result m codes) s = .next (t.answerPort p (.refuse .duplicate)))
        ∧ (u.config.inspection ≤ pos → r.status[i] = .timedOut ∨ (r.status[i] = .open_ ∧ u.config.deadline ≤ pos) →
          exec (.verdict p point seq result m codes) s = .next (t.answerPort p (.refuse .late)))
        ∧ (u.config.inspection ≤ pos → pos < u.config.deadline → r.status[i] = .open_ → ∃ (v : State) (q : Record),
          exec (.verdict p point seq result m codes) s
              = .next (v.answerPort p (.okWith (byte1 pos ++ byte1 (if result = 1 then 3 else 2))))
            ∧ v.recordAt pos = some q
            ∧ q = { r with
              status := r.status.set i (if result = 1 then .failed else .passed)
              defects := q.defects
              deposit := if m = 255 then r.deposit else some m }
            ∧ (∀ c : Code, hasCode r.defects c = true ∨ (result = 1 ∧ (c.val ∈ codes ∨ c = 5)) →
              hasCode q.defects c = true)
            ∧ (∀ g : Fin 3, u.config.trim = some g → m ≤ 127 → m ≤ (t.group g).config.noise → hasCode q.defects 6 = true)
            ∧ (∀ g : Fin 3, u.config.trim = some g → m ≤ 127 → ∃ w q0, w = t.modifyAt pos (fun _ => q0)
              ∧ q0 = { q with defects := q0.defects }
              ∧ (∀ c : Code, hasCode q0.defects c = true ↔
                hasCode r.defects c = true ∨ (result = 1 ∧ (c.val ∈ codes ∨ c = 5)))
              ∧ v = (w.measure g (BitVec.ofNat 32 seq) m).setPoint i { u with timeouts := 0 })
            ∧ (u.config.trim = none ∨ m = 255 → v.tr = t.tr ∧ v.fu = t.fu ∧ v.ports = t.ports
              ∧ (∀ j, j ≠ pos → v.recordAt j = t.recordAt j)
              ∧ ∀ c : Code, hasCode q.defects c = true →
                hasCode r.defects c = true ∨ (result = 1 ∧ (c.val ∈ codes ∨ c = 5)))
            ∧ (∀ g : Fin 3, u.config.trim ≠ some g → v.group g = t.group g)
            ∧ v.point i = { u with timeouts := 0 } ∧ (∀ j : Fin 4, j ≠ i → v.point j = t.point j)
            ∧ v.tl = { t.tl with ring := v.tl.ring } ∧ v.births = t.births
            ∧ v.pu = t.pu ∧ v.rs = t.rs ∧ v.cu = t.cu ∧ v.bq = t.bq ∧ v.cc = t.cc ∧ v.fh = t.fh
            ∧ v.fresh = t.fresh ∧ v.pending = t.pending ∧ ∀ x, PortGrow (t.port x) (v.port x))

/-- A forced close: at the count arrival of a record that is not last of run, with the flag SET and fewer than 15 entries, the
record is counted and the batch closes with reason FORCED if its good count is then at least 1, with the closing mark on the
record and the next batch open, and is discarded if it is 0; the flag becomes CLEAR in either case. The count arrival in its
parts: a record of run NONE is counted in nothing; one of a run by its fate in the open batch and in its run record. Then RUN
END, FORCED or FULL by the first test that holds, FULL deferred with the overrun flag from 15 entries on; what a close or a
discard does, with BATCH CLOSED and then the test of the backlog; and RUN ENDED at the completion of the ending run record. -/
def Obligations.ForcedCloseEndsTheBatch : Prop :=
  (∀ (via : Stimulus) (r : Record) (run : Word32) (s : State), s.advances via → s.config.good → s.ringLaw →
    s.recordAt (s.config.count - 1) = some r → r.lastOfRun = false → r.run = some run → s.cu.forcePending = true →
    s.bq.entries.length < 15 → (s.cu.batch.owner = none ↔ s.cu.batch.good = 0) →
    let good := if r.fate = .good ∧ s.cu.batch.good ≠ 0xFFFFFFFF#32 then s.cu.batch.good + 1 else s.cu.batch.good
    ∃ t : State, exec (.forcedClose via) s = .next t ∧ t.cu.forcePending = false
      ∧ (good = 0 → t.cu.batch = ⟨s.cu.nextBatch, none, 0, 0, 0, 0, false⟩ ∧ t.cu.nextBatch = s.cu.nextBatch ∧ t.bq = s.bq)
      ∧ (good ≠ 0 → t.cu.batch = ⟨s.cu.nextBatch + 1, none, 0, 0, 0, 0, false⟩ ∧ t.cu.nextBatch = s.cu.nextBatch + 1
        ∧ (∃ e, t.bq.entries = s.bq.entries ++ [e] ∧ e.number = s.cu.batch.number ∧ e.good = good ∧ e.reason = .forced
          ∧ e.overrun = s.cu.batch.overrun ∧ (r.fate = .good → e.owner.lastSeq = r.seq))
        ∧ ∃ q, t.recordAt s.config.count = some q ∧ q.seq = r.seq ∧ q.closing = true
          ∧ (r.fate = .good → q.batch = some s.cu.batch.number)))
  ∧ (∀ s : State, (s.recordAt s.config.count = none → s.countArrival = s)
    ∧ ∀ r, s.recordAt s.config.count = some r → s.countArrival = (s.countRecord r).closeTests r)
  ∧ (∀ (s : State) (r : Record), r.run = none → s.countRecord r = s)
  ∧ (∀ (s : State) (r : Record) (run : Word32), s.recordAt s.config.count = some r → r.run = some run →
    let inc := fun n : Word32 => if n = 0xFFFFFFFF#32 then n else n + 1
    ∃ (u : State) (b : OpenBatch), u = s.countRecord r
      ∧ b = { s.cu.batch with
        good := if r.fate = .good then inc s.cu.batch.good else s.cu.batch.good
        reject := if r.fate = .reject then inc s.cu.batch.reject else s.cu.batch.reject
        sample := if r.fate = .sample then inc s.cu.batch.sample else s.cu.batch.sample
        suspect := if r.fate = .good ∧ hasCode r.defects 2 = true then inc s.cu.batch.suspect else s.cu.batch.suspect
        owner := b.owner }
      ∧ (r.fate ≠ .good → b.owner = s.cu.batch.owner ∧ u.tl.ring = s.tl.ring)
      ∧ (r.fate = .good → u.recordAt s.config.count = some { r with batch := some s.cu.batch.number }
        ∧ (∀ o, s.cu.batch.owner = some o → b.owner = some { o with lastSeq := r.seq })
        ∧ ∀ j rr, s.cu.batch.owner = none → r.slot = some j → s.runRecordOf run = some rr →
          b.owner = some ⟨run, j, rr.jobCode, r.seq, r.seq⟩)
      ∧ (∀ rr, s.runRecordOf run = some rr → u.runRecordOf run = some { rr with
        births := rr.births + 1
        voids := if r.fate = .void then rr.voids + 1 else rr.voids
        good := if r.fate = .good then rr.good + 1 else rr.good
        reject := if r.fate = .reject then rr.reject + 1 else rr.reject
        sample := if r.fate = .sample then rr.sample + 1 else rr.sample })
      ∧ (∀ x, x ≠ run → u.runRecordOf x = s.runRecordOf x)
      ∧ (∀ k, k ≠ s.config.count → u.recordAt k = s.recordAt k)
      ∧ u = (s.withCu { s.cu with batch := b }).withTl
        { s.tl with ring := u.tl.ring, current := u.tl.current, ending := u.tl.ending })
  ∧ (∀ (s : State) (r : Record),
    let full := ∃ (o : BatchOwner) (j : Recipe), s.cu.batch.owner = some o ∧ s.recipe o.slot = some j
      ∧ j.batchSize ≤ s.cu.batch.good.toNat
    (r.lastOfRun = true → s.closeTests r = ((s.endBatch .runEnd).setForce false).completeEnding)
    ∧ (r.lastOfRun = false → s.cu.forcePending = true → s.bq.entries.length < 15 →
      s.closeTests r = (s.endBatch .forced).setForce false)
    ∧ (r.lastOfRun = false → s.cu.forcePending = false ∨ 15 ≤ s.bq.entries.length →
      (full → s.bq.entries.length < 15 → s.closeTests r = s.endBatch .full)
      ∧ (full → 15 ≤ s.bq.entries.length →
        s.closeTests r = s.withCu { s.cu with batch := { s.cu.batch with overrun := true } })
      ∧ (¬full → s.closeTests r = s)))
  ∧ (∀ (s : State) (reason : CloseReason),
    (s.cu.batch.owner = none ∨ s.cu.batch.good = 0 →
      s.endBatch reason = s.withCu { s.cu with batch := ⟨s.cu.nextBatch, none, 0, 0, 0, 0, false⟩ })
    ∧ ∀ o, s.cu.batch.owner = some o → s.cu.batch.good ≠ 0 → ∃ u : State, u = s.endBatch reason
      ∧ u.bq = ⟨s.bq.entries ++ [⟨s.cu.batch.number, o, s.cu.batch.good, s.cu.batch.reject, s.cu.batch.sample,
        s.cu.batch.suspect, reason, s.cu.batch.overrun⟩], decide (s.config.backlog ≤ s.bq.entries.length + 1)⟩
      ∧ u.cu = ⟨⟨s.cu.nextBatch + 1, none, 0, 0, 0, 0, false⟩, s.cu.nextBatch + 1, s.cu.forcePending⟩
      ∧ (∀ r, s.recordAt s.config.count = some r → u.recordAt s.config.count = some { r with closing := true })
      ∧ (∀ k, k ≠ s.config.count → u.recordAt k = s.recordAt k) ∧ u.tl = { s.tl with ring := u.tl.ring }
      ∧ (∃ w : State, w = ((s.withBq { s.bq with entries := u.bq.entries }).notify (fun _ r => r == .pack)
          (.batchClosed s.cu.batch.number reason s.cu.batch.good)).testBacklog
        ∧ u = (w.withCu u.cu).withTl u.tl)
      ∧ ∀ p, PortGrow (s.port p) (u.port p) ∧ ((s.port p).role = .pack → (s.port p).queue.length < 32 →
        (⟨s.pu.pitch, .batchClosed s.cu.batch.number reason s.cu.batch.good⟩ : NoticeRecord) ∈ (u.port p).queue))
  ∧ ∀ s : State, (s.tl.ending = none → s.completeEnding = s)
    ∧ ∀ rr, s.tl.ending = some rr → ∃ u : State, u = s.completeEnding
      ∧ u = ((s.withTl { s.tl with ending := none }).withCc { s.cc with transition := none }).withPorts u.ports
      ∧ ∀ p, PortGrow (s.port p) (u.port p)
        ∧ ((s.port p).role = .line ∨ (s.port p).role = .pack → (s.port p).queue.length < 32 →
          (u.port p).queue = (s.port p).queue ++ [⟨s.pu.pitch, .runEnded rr⟩])

/-! ### Firing -/

/-- The firing arithmetic: W' is the width by the trim value over 128 rounded, within 1 to 4,095; Ew is W' widened by the on
advance and shortened by the off advance, within 1 to 4,095; an occurrence fires with a clamped value when its Ew was so set or
its output is CLAMPED. The trim value is T of the output's group, 128 for NONE. -/
def Obligations.EffectiveWidthStaysInLimits : Prop :=
  (∀ w t aOn aOff : Nat, ∃ (w' : Nat) (ew : Int), w' = max 1 (min 4095 ((2 * (w * t) + 128) / 256))
    ∧ ew = (w' : Int) + aOn - aOff
    ∧ effectiveWidth w t aOn aOff = (if ew < 1 then 1 else if 4095 < ew then 4095 else ew)
    ∧ (widthClamped w t aOn aOff = true ↔ ew < 1 ∨ 4095 < ew)
    ∧ 1 ≤ effectiveWidth w t aOn aOff ∧ effectiveWidth w t aOn aOff ≤ 4095)
  ∧ (∀ (s : State) (c : OutputConfig), (c.trim = none → s.trimOf c = 128)
    ∧ ∀ g : Fin 3, c.trim = some g → s.trimOf c = (s.group g).t)
  ∧ (∀ (s : State) (u : OutputUnit) (q : Occurrence), s.firesClamped u q = true ↔
    u.clamped = true ∨ widthClamped q.width (s.trimOf u.config) u.aOn u.aOff = true)
  ∧ ∀ (q : Occurrence) (latency speed lag t : Nat), q.theta ≤ 4095 →
    let r := q.recompute (advance latency speed) (advance lag speed) t
    r.on = (q.theta : Int) - advance latency speed
      ∧ r.expiry = r.on + effectiveWidth q.width t (advance latency speed) (advance lag speed)
      ∧ -2048 ≤ r.on ∧ r.on ≤ 4095 ∧ -2047 ≤ r.expiry ∧ r.expiry ≤ 8190

/-- Arming: an enabled output arms one occurrence for each segment of the defined profile that the output map of the record at
station − 1 names for it, with k = 0 and its on point and expiry point; without such a record or profile, or disabled, it arms
nothing. The arming of an advance does so for every output. -/
def Obligations.OutputsArmAtStationLessOne : Prop :=
  (∀ s : State, s.armAll = (List.finRange 16).foldl State.armOutput s)
  ∧ ∀ (s : State) (o : OutId),
    ((s.output o).config.enable = false ∨ s.recordAt ((s.output o).config.station - 1) = none → s.armOutput o = s)
    ∧ ∀ r, (s.output o).config.enable = true → s.recordAt ((s.output o).config.station - 1) = some r →
      ((∀ (j : Recipe) (p : ProfileId), s.recipeOf r = some j → j.outputMap[o] = some p → (s.rs.profiles[p]).count = 0) →
        s.armOutput o = s)
      ∧ ∀ (j : Recipe) (p : ProfileId), s.recipeOf r = some j → j.outputMap[o] = some p → 0 < (s.rs.profiles[p]).count →
        (s.rs.profiles[p]).first + (s.rs.profiles[p]).count ≤ 256 → ∃ l : List Occurrence,
          s.armOutput o = s.setOutput o { s.output o with armed := (s.output o).armed ++ l }
            ∧ l.length = (s.rs.profiles[p]).count
            ∧ ∀ (i : Nat) (g : Segment), i < (s.rs.profiles[p]).count →
              s.rs.segments[(s.rs.profiles[p]).first + i]? = some g → ∃ q, l[i]? = some q
                ∧ q = ⟨r.seq, (s.rs.profiles[p]).first + i, g.theta, g.width, 0, q.on, q.expiry⟩
                ∧ q.on = (g.theta : Int) - (s.output o).aOn
                ∧ q.expiry = q.on
                  + effectiveWidth g.width (s.trimOf (s.output o).config) (s.output o).aOn (s.output o).aOff

/-- The gating test by class on the gated record, and the outcome of a judgement by the extended angle: the expiry point passed,
below the on point, held back by the gating test, suppressed for a run-only output outside RUN, or fired. An occurrence that the
event will carry past its expiry point is not fired: it stays, and expires once that point is reached (log entry 13, the model's
reading). What a judgement does: a suppressed or expired occurrence of class PRESENT leaves the output's omission code on its
record, an expired one only where the record passes the gating test; a fired one begins a pulse with its expiry point latched as
the off point, and TIMING LIMIT joins the record of a PRESENT-class firing with a clamped value. Judgements are made with b = 0,
FORWARD and outside REVERSE, on each output's occurrences in order, the outputs in the order of their numbers (log entry 12,
DEDUCED). A pulse ends when its off point is passed; one that is forced
off leaves the omission code; at k = 2 in REVERSE an occurrence expires, and
leaves the omission code of its PRESENT-class output where its record passes the gating test. -/
def Obligations.JudgementFollowsGatingAndAngle : Prop :=
  (∀ (s : State) (seq : Word32) (cls : GatingClass),
    ((∀ r ∈ s.tl.ring, r.seq ≠ seq) → s.gateOpen cls seq = false)
    ∧ ∀ r, s.recordOf seq = some r →
      (cls = .always → s.gateOpen cls seq = true)
      ∧ (cls = .present → (s.gateOpen cls seq = true ↔ r.void = false
        ∧ ∀ (j : Recipe) (c : Code), s.recipeOf r = some j → hasCode r.defects c = true → hasCode j.skipMask c = false))
      ∧ (cls = .reject → (s.gateOpen cls seq = true ↔ r.fate = .reject))
      ∧ (cls = .sample → (s.gateOpen cls seq = true ↔ r.fate = .sample))
      ∧ (cls = .closing → (s.gateOpen cls seq = true ↔ r.closing = true)))
  ∧ (∀ (s : State) (u : OutputUnit) (q : Occurrence) (x xEnd : Int), x ≤ xEnd → q.on < q.expiry →
    (q.expiry ≤ x → s.judgement u q x xEnd = .expired)
    ∧ (x < q.on → s.judgement u q x xEnd = .stays)
    ∧ (q.on ≤ x → xEnd < q.expiry →
      (s.gateOpen u.config.gating q.seq = false → s.judgement u q x xEnd = .heldBack)
      ∧ (s.gateOpen u.config.gating q.seq = true → u.config.runOnly = true → s.pu.lineState ≠ .run →
        s.judgement u q x xEnd = .suppressed)
      ∧ (s.gateOpen u.config.gating q.seq = true → u.config.runOnly = false ∨ s.pu.lineState = .run →
        s.judgement u q x xEnd = .fires))
    ∧ (q.on ≤ x → x < q.expiry → q.expiry ≤ xEnd →
      s.judgement u q x xEnd = .stays ∧ s.judgement u q xEnd xEnd = .expired))
  ∧ (∀ (s : State) (o : OutId) (q : Occurrence),
    let c := (s.output o).config
    let marked := fun code : Code => s.withTl { s.tl with
      ring := s.tl.ring.map fun r => if r.seq = q.seq then { r with defects := addCode r.defects code } else r }
    s.applyJudgement o q .stays = (s, true) ∧ s.applyJudgement o q .heldBack = (s, false)
    ∧ (c.gating ≠ .present ∨ c.omission = none →
      s.applyJudgement o q .suppressed = (s, false) ∧ s.applyJudgement o q .expired = (s, false))
    ∧ (s.gateOpen .present q.seq = false → s.applyJudgement o q .expired = (s, false))
    ∧ (∀ code, c.gating = .present → c.omission = some code → s.applyJudgement o q .suppressed = (marked code, false)
      ∧ (s.gateOpen .present q.seq = true → s.applyJudgement o q .expired = (marked code, false)))
    ∧ ∃ t : State, s.applyJudgement o q .fires = (t, false)
      ∧ t.output o = { s.output o with pulses := (s.output o).pulses ++ [⟨q.seq, q.segment, q.expiry, q.k⟩] }
      ∧ (∀ x : OutId, x ≠ o → t.output x = s.output x)
      ∧ (c.gating = .present → s.firesClamped (s.output o) q = true → t.tl = (marked 14).tl)
      ∧ (c.gating ≠ .present ∨ s.firesClamped (s.output o) q = false → t.tl = s.tl)
      ∧ t = (s.withFu t.fu).withTl t.tl)
  ∧ (∀ (s : State) (angle ahead : Nat),
    (s.pu.backlash = true ∨ s.pu.dir = .reverse ∨ s.pu.lineState = .reverse → s.judgeAll angle ahead = s)
    ∧ (s.pu.backlash = false → s.pu.dir = .forward → s.pu.lineState ≠ .reverse →
      s.judgeAll angle ahead = (List.finRange 16).foldl (fun u o => u.judgeOutput angle ahead o) s)
    ∧ ∀ o : OutId, State.judgeList o angle ahead [] s = (s, [])
      ∧ (∀ (q : Occurrence) (rest : List Occurrence), ∃ (x : Int) (r : State × Bool) (y : State × List Occurrence),
        x = 4096 * ((q.k : Int) - 1 - (if s.pu.backlash then 1 else 0)) + angle
          ∧ r = s.applyJudgement o q (s.judgement (s.output o) q x (x + ahead))
          ∧ y = State.judgeList o angle ahead rest r.1
          ∧ State.judgeList o angle ahead (q :: rest) s = (y.1, if r.2 then q :: y.2 else y.2))
      ∧ ∃ y : State × List Occurrence, y = State.judgeList o angle ahead (s.output o).armed s
        ∧ s.judgeOutput angle ahead o = y.1.setOutput o { y.1.output o with armed := y.2 })
  ∧ ∀ (s : State) (o : OutId),
    (∀ x : Pulse → Int, (∀ q, x q = 4096 * ((q.k : Int) - 1 - (if s.pu.backlash then 1 else 0)) + s.pu.angle) →
      s.endPulses.output o = { s.output o with pulses := (s.output o).pulses.filter (fun q => decide (x q < q.off)) })
    ∧ s.endPulses = s.withFu s.endPulses.fu
    ∧ (s.forceOff o).output o = { s.output o with pulses := [] }
    ∧ (∀ x : OutId, x ≠ o → (s.forceOff o).output x = s.output x)
    ∧ ((s.output o).config.gating ≠ .present ∨ (s.output o).config.omission = none → (s.forceOff o).tl = s.tl)
    ∧ (∀ code, (s.output o).config.gating = .present → (s.output o).config.omission = some code →
      ∀ q ∈ (s.output o).pulses, ∀ r ∈ (s.forceOff o).tl.ring, r.seq = q.seq → hasCode r.defects code = true)
    ∧ (s.pu.lineState ≠ .reverse → s.expireLate = s)
    ∧ (s.pu.lineState = .reverse →
      s.expireLate.output o = { s.output o with armed := (s.output o).armed.filter (fun q => decide (q.k < 2)) }
      ∧ ∃ f : State → OutId → State, s.expireLate = (List.finRange 16).foldl f s
        ∧ ∀ (u : State) (x : OutId),
          let c := (u.output x).config
          f u x = (u.withFu (f u x).fu).withTl (f u x).tl
          ∧ (f u x).output x = { u.output x with armed := (u.output x).armed.filter (fun q => decide (q.k < 2)) }
          ∧ (∀ y : OutId, y ≠ x → (f u x).output y = u.output y)
          ∧ (c.gating ≠ .present ∨ c.omission = none → (f u x).tl = u.tl)
          ∧ ∀ code, c.gating = .present → c.omission = some code → (f u x).tl = { u.tl with
            ring := u.tl.ring.map fun r =>
              if (u.output x).armed.any (fun q => decide (2 ≤ q.k) && q.seq == r.seq) && u.gateOpen .present r.seq then
                { r with defects := addCode r.defects code }
              else r })

/-! ### What every step keeps -/

/-- Every step keeps the ring: at most P records, seqs consecutive and increasing toward the knife, the newest the last
issued. -/
def Obligations.RingLawIsKept : Prop := ∀ s t : State, s.ringLaw → step s = .next t → t.ringLaw

/-- Every step keeps Changeover Control and the Tracking Line in agreement on the current and the ending run. -/
def Obligations.RunLawIsKept : Prop := ∀ s t : State, s.config.good → s.runLaw → step s = .next t → t.runLaw

/-- Every step keeps the Box Queue at 16 entries or fewer, 15 with a transition pending, their numbers consecutive up to the
open batch, and at most one last-of-run record upstream of the count position. -/
def Obligations.BoxLawIsKept : Prop :=
  ∀ s t : State, s.ringLaw → s.runLaw → s.boxLaw → step s = .next t → t.boxLaw

/-- Every step keeps HOLD active exactly while a tracking fault is latched, a point is OFFLINE or the queue holds at least the
backlog threshold. -/
def Obligations.HoldLawIsKept : Prop :=
  (∀ s t : State, s.holdLaw → step s = .next t → t.holdLaw)
  ∧ ∀ s : State, s.holdLaw → (s.fh.hold = true ↔ (s.fh.reverseOverrun.latched = true ∨ s.fh.indexSlip.latched = true
    ∨ s.fh.quadratureError.latched = true) ∨ (∃ i : Fin 4, (s.point i).offline = true)
    ∨ s.config.backlog ≤ s.bq.entries.length)

/-- Every step keeps a recipe in every slot that the current run, the armed job or a record names; and every step keeps every
profile within the pool, with strictly ascending on-angles. -/
def Obligations.StoreLawsAreKept : Prop :=
  (∀ s t : State, s.liveLaw → step s = .next t → t.liveLaw) ∧ ∀ s t : State, s.storeLaw → step s = .next t → t.storeLaw

/-- Every step keeps every trim value within its group's Tmin to Tmax, and within 32 to 255. A trim value changes only at a
VERDICT (by a step), a TRIM CONFIG, a SET TRIM or a reset, and a command other than a reset reaches one group at most. -/
def Obligations.TrimLawIsKept : Prop :=
  (∀ s t : State, s.trimLaw → step s = .next t → t.trimLaw)
  ∧ (∀ s : State, s.trimLaw → ∀ g : Fin 3, (s.group g).config.tmin ≤ (s.group g).t
    ∧ (s.group g).t ≤ (s.group g).config.tmax ∧ 32 ≤ (s.group g).t ∧ (s.group g).t ≤ 255)
  ∧ ∀ (c : Instr) (s t : State), exec c s = .next t → (∀ pins, c ≠ .powerOn pins ∧ c ≠ .resetPin pins) →
    (∃ g : Fin 3, ∀ h : Fin 3, h ≠ g → t.group h = s.group h)
    ∧ ((∀ p point seq result m codes, c ≠ .verdict p point seq result m codes) → (∀ p f, c ≠ .trimConfig p f) →
      (∀ p g v, c ≠ .setTrim p g v) → t.tr = s.tr)

/-- Every step keeps every advance within 2,048 points, every armed width within 1 to 4,095, and a disabled output without
advances, occurrences, pulses or test pulse, at its inactive level. -/
def Obligations.FiringLawIsKept : Prop :=
  (∀ s t : State, s.firingLaw → step s = .next t → t.firingLaw)
  ∧ ∀ (s : State) (o : OutId), s.firingLaw → (s.output o).config.enable = false →
    (s.output o).level = !(s.output o).config.activeHigh

/-- Every step keeps the Position Unit in the ranges of its state table. -/
def Obligations.PositionLawIsKept : Prop := ∀ s t : State, s.positionLaw → step s = .next t → t.positionLaw

/-- Every step keeps a raise count of 1 to 255 with every latched fault and 0 otherwise, and no notice queue above 32. A notice
joins the newest end of the queue of every port it is for, whose ATN is then active; at a queue of 32 it is lost and the
port's overflow flag is set. A full queue and a set overflow flag stay through every command but a reset and the port's own
NOTICE TAKE. -/
def Obligations.FaultAndNoticeLawsAreKept : Prop :=
  (∀ s t : State, s.faultLaw → s.noticeLaw → step s = .next t → t.faultLaw ∧ t.noticeLaw)
  ∧ (∀ (s : State) (dest : PortId → Role → Bool) (n : Notice), s.notify dest n = s.withPorts (s.notify dest n).ports
    ∧ ∀ p, (dest p (s.port p).role = false → (s.notify dest n).port p = s.port p)
      ∧ (dest p (s.port p).role = true → (s.port p).queue.length < 32 →
        (s.notify dest n).port p = { s.port p with queue := (s.port p).queue ++ [⟨s.pu.pitch, n⟩] })
      ∧ (dest p (s.port p).role = true → 32 ≤ (s.port p).queue.length →
        (s.notify dest n).port p = { s.port p with overflow := true })
      ∧ (dest p (s.port p).role = true → ((s.notify dest n).port p).atn = true))
  ∧ ∀ (c : Instr) (s t : State) (p : PortId), exec c s = .next t → (∀ pins, c ≠ .powerOn pins ∧ c ≠ .resetPin pins) →
    c ≠ .noticeTake p → ((s.port p).overflow = true → (t.port p).overflow = true)
      ∧ ((s.port p).queue.length = 32 → (t.port p).queue = (s.port p).queue)
end

