-- ==== Sys2Proof/Laws/State.lean ====
section
/-! SUPPORT. What each update of one field of the state leaves and what it sets: one lemma for each field and update, so that
no proof unfolds a record update. -/

namespace Sys2Proof.Machine

variable (s : State)

/-! ### `withPu` -/

@[simp] theorem withPu_pu (v : PU) : (s.withPu v).pu = v := rfl
@[simp] theorem withPu_rs (v : PU) : (s.withPu v).rs = s.rs := rfl
@[simp] theorem withPu_tl (v : PU) : (s.withPu v).tl = s.tl := rfl
@[simp] theorem withPu_fu (v : PU) : (s.withPu v).fu = s.fu := rfl
@[simp] theorem withPu_tr (v : PU) : (s.withPu v).tr = s.tr := rfl
@[simp] theorem withPu_iu (v : PU) : (s.withPu v).iu = s.iu := rfl
@[simp] theorem withPu_cu (v : PU) : (s.withPu v).cu = s.cu := rfl
@[simp] theorem withPu_bq (v : PU) : (s.withPu v).bq = s.bq := rfl
@[simp] theorem withPu_cc (v : PU) : (s.withPu v).cc = s.cc := rfl
@[simp] theorem withPu_fh (v : PU) : (s.withPu v).fh = s.fh := rfl
@[simp] theorem withPu_ports (v : PU) : (s.withPu v).ports = s.ports := rfl
@[simp] theorem withPu_fresh (v : PU) : (s.withPu v).fresh = s.fresh := rfl
@[simp] theorem withPu_pending (v : PU) : (s.withPu v).pending = s.pending := rfl

/-! ### `withRs` -/

@[simp] theorem withRs_pu (v : RS) : (s.withRs v).pu = s.pu := rfl
@[simp] theorem withRs_rs (v : RS) : (s.withRs v).rs = v := rfl
@[simp] theorem withRs_tl (v : RS) : (s.withRs v).tl = s.tl := rfl
@[simp] theorem withRs_fu (v : RS) : (s.withRs v).fu = s.fu := rfl
@[simp] theorem withRs_tr (v : RS) : (s.withRs v).tr = s.tr := rfl
@[simp] theorem withRs_iu (v : RS) : (s.withRs v).iu = s.iu := rfl
@[simp] theorem withRs_cu (v : RS) : (s.withRs v).cu = s.cu := rfl
@[simp] theorem withRs_bq (v : RS) : (s.withRs v).bq = s.bq := rfl
@[simp] theorem withRs_cc (v : RS) : (s.withRs v).cc = s.cc := rfl
@[simp] theorem withRs_fh (v : RS) : (s.withRs v).fh = s.fh := rfl
@[simp] theorem withRs_ports (v : RS) : (s.withRs v).ports = s.ports := rfl
@[simp] theorem withRs_fresh (v : RS) : (s.withRs v).fresh = s.fresh := rfl
@[simp] theorem withRs_pending (v : RS) : (s.withRs v).pending = s.pending := rfl

/-! ### `withTl` -/

@[simp] theorem withTl_pu (v : TL) : (s.withTl v).pu = s.pu := rfl
@[simp] theorem withTl_rs (v : TL) : (s.withTl v).rs = s.rs := rfl
@[simp] theorem withTl_tl (v : TL) : (s.withTl v).tl = v := rfl
@[simp] theorem withTl_fu (v : TL) : (s.withTl v).fu = s.fu := rfl
@[simp] theorem withTl_tr (v : TL) : (s.withTl v).tr = s.tr := rfl
@[simp] theorem withTl_iu (v : TL) : (s.withTl v).iu = s.iu := rfl
@[simp] theorem withTl_cu (v : TL) : (s.withTl v).cu = s.cu := rfl
@[simp] theorem withTl_bq (v : TL) : (s.withTl v).bq = s.bq := rfl
@[simp] theorem withTl_cc (v : TL) : (s.withTl v).cc = s.cc := rfl
@[simp] theorem withTl_fh (v : TL) : (s.withTl v).fh = s.fh := rfl
@[simp] theorem withTl_ports (v : TL) : (s.withTl v).ports = s.ports := rfl
@[simp] theorem withTl_fresh (v : TL) : (s.withTl v).fresh = s.fresh := rfl
@[simp] theorem withTl_pending (v : TL) : (s.withTl v).pending = s.pending := rfl

/-! ### `withFu` -/

@[simp] theorem withFu_pu (v : FU) : (s.withFu v).pu = s.pu := rfl
@[simp] theorem withFu_rs (v : FU) : (s.withFu v).rs = s.rs := rfl
@[simp] theorem withFu_tl (v : FU) : (s.withFu v).tl = s.tl := rfl
@[simp] theorem withFu_fu (v : FU) : (s.withFu v).fu = v := rfl
@[simp] theorem withFu_tr (v : FU) : (s.withFu v).tr = s.tr := rfl
@[simp] theorem withFu_iu (v : FU) : (s.withFu v).iu = s.iu := rfl
@[simp] theorem withFu_cu (v : FU) : (s.withFu v).cu = s.cu := rfl
@[simp] theorem withFu_bq (v : FU) : (s.withFu v).bq = s.bq := rfl
@[simp] theorem withFu_cc (v : FU) : (s.withFu v).cc = s.cc := rfl
@[simp] theorem withFu_fh (v : FU) : (s.withFu v).fh = s.fh := rfl
@[simp] theorem withFu_ports (v : FU) : (s.withFu v).ports = s.ports := rfl
@[simp] theorem withFu_fresh (v : FU) : (s.withFu v).fresh = s.fresh := rfl
@[simp] theorem withFu_pending (v : FU) : (s.withFu v).pending = s.pending := rfl

/-! ### `withTr` -/

@[simp] theorem withTr_pu (v : TR) : (s.withTr v).pu = s.pu := rfl
@[simp] theorem withTr_rs (v : TR) : (s.withTr v).rs = s.rs := rfl
@[simp] theorem withTr_tl (v : TR) : (s.withTr v).tl = s.tl := rfl
@[simp] theorem withTr_fu (v : TR) : (s.withTr v).fu = s.fu := rfl
@[simp] theorem withTr_tr (v : TR) : (s.withTr v).tr = v := rfl
@[simp] theorem withTr_iu (v : TR) : (s.withTr v).iu = s.iu := rfl
@[simp] theorem withTr_cu (v : TR) : (s.withTr v).cu = s.cu := rfl
@[simp] theorem withTr_bq (v : TR) : (s.withTr v).bq = s.bq := rfl
@[simp] theorem withTr_cc (v : TR) : (s.withTr v).cc = s.cc := rfl
@[simp] theorem withTr_fh (v : TR) : (s.withTr v).fh = s.fh := rfl
@[simp] theorem withTr_ports (v : TR) : (s.withTr v).ports = s.ports := rfl
@[simp] theorem withTr_fresh (v : TR) : (s.withTr v).fresh = s.fresh := rfl
@[simp] theorem withTr_pending (v : TR) : (s.withTr v).pending = s.pending := rfl

/-! ### `withIu` -/

@[simp] theorem withIu_pu (v : IU) : (s.withIu v).pu = s.pu := rfl
@[simp] theorem withIu_rs (v : IU) : (s.withIu v).rs = s.rs := rfl
@[simp] theorem withIu_tl (v : IU) : (s.withIu v).tl = s.tl := rfl
@[simp] theorem withIu_fu (v : IU) : (s.withIu v).fu = s.fu := rfl
@[simp] theorem withIu_tr (v : IU) : (s.withIu v).tr = s.tr := rfl
@[simp] theorem withIu_iu (v : IU) : (s.withIu v).iu = v := rfl
@[simp] theorem withIu_cu (v : IU) : (s.withIu v).cu = s.cu := rfl
@[simp] theorem withIu_bq (v : IU) : (s.withIu v).bq = s.bq := rfl
@[simp] theorem withIu_cc (v : IU) : (s.withIu v).cc = s.cc := rfl
@[simp] theorem withIu_fh (v : IU) : (s.withIu v).fh = s.fh := rfl
@[simp] theorem withIu_ports (v : IU) : (s.withIu v).ports = s.ports := rfl
@[simp] theorem withIu_fresh (v : IU) : (s.withIu v).fresh = s.fresh := rfl
@[simp] theorem withIu_pending (v : IU) : (s.withIu v).pending = s.pending := rfl

/-! ### `withCu` -/

@[simp] theorem withCu_pu (v : CU) : (s.withCu v).pu = s.pu := rfl
@[simp] theorem withCu_rs (v : CU) : (s.withCu v).rs = s.rs := rfl
@[simp] theorem withCu_tl (v : CU) : (s.withCu v).tl = s.tl := rfl
@[simp] theorem withCu_fu (v : CU) : (s.withCu v).fu = s.fu := rfl
@[simp] theorem withCu_tr (v : CU) : (s.withCu v).tr = s.tr := rfl
@[simp] theorem withCu_iu (v : CU) : (s.withCu v).iu = s.iu := rfl
@[simp] theorem withCu_cu (v : CU) : (s.withCu v).cu = v := rfl
@[simp] theorem withCu_bq (v : CU) : (s.withCu v).bq = s.bq := rfl
@[simp] theorem withCu_cc (v : CU) : (s.withCu v).cc = s.cc := rfl
@[simp] theorem withCu_fh (v : CU) : (s.withCu v).fh = s.fh := rfl
@[simp] theorem withCu_ports (v : CU) : (s.withCu v).ports = s.ports := rfl
@[simp] theorem withCu_fresh (v : CU) : (s.withCu v).fresh = s.fresh := rfl
@[simp] theorem withCu_pending (v : CU) : (s.withCu v).pending = s.pending := rfl

/-! ### `withBq` -/

@[simp] theorem withBq_pu (v : BQ) : (s.withBq v).pu = s.pu := rfl
@[simp] theorem withBq_rs (v : BQ) : (s.withBq v).rs = s.rs := rfl
@[simp] theorem withBq_tl (v : BQ) : (s.withBq v).tl = s.tl := rfl
@[simp] theorem withBq_fu (v : BQ) : (s.withBq v).fu = s.fu := rfl
@[simp] theorem withBq_tr (v : BQ) : (s.withBq v).tr = s.tr := rfl
@[simp] theorem withBq_iu (v : BQ) : (s.withBq v).iu = s.iu := rfl
@[simp] theorem withBq_cu (v : BQ) : (s.withBq v).cu = s.cu := rfl
@[simp] theorem withBq_bq (v : BQ) : (s.withBq v).bq = v := rfl
@[simp] theorem withBq_cc (v : BQ) : (s.withBq v).cc = s.cc := rfl
@[simp] theorem withBq_fh (v : BQ) : (s.withBq v).fh = s.fh := rfl
@[simp] theorem withBq_ports (v : BQ) : (s.withBq v).ports = s.ports := rfl
@[simp] theorem withBq_fresh (v : BQ) : (s.withBq v).fresh = s.fresh := rfl
@[simp] theorem withBq_pending (v : BQ) : (s.withBq v).pending = s.pending := rfl

/-! ### `withCc` -/

@[simp] theorem withCc_pu (v : CC) : (s.withCc v).pu = s.pu := rfl
@[simp] theorem withCc_rs (v : CC) : (s.withCc v).rs = s.rs := rfl
@[simp] theorem withCc_tl (v : CC) : (s.withCc v).tl = s.tl := rfl
@[simp] theorem withCc_fu (v : CC) : (s.withCc v).fu = s.fu := rfl
@[simp] theorem withCc_tr (v : CC) : (s.withCc v).tr = s.tr := rfl
@[simp] theorem withCc_iu (v : CC) : (s.withCc v).iu = s.iu := rfl
@[simp] theorem withCc_cu (v : CC) : (s.withCc v).cu = s.cu := rfl
@[simp] theorem withCc_bq (v : CC) : (s.withCc v).bq = s.bq := rfl
@[simp] theorem withCc_cc (v : CC) : (s.withCc v).cc = v := rfl
@[simp] theorem withCc_fh (v : CC) : (s.withCc v).fh = s.fh := rfl
@[simp] theorem withCc_ports (v : CC) : (s.withCc v).ports = s.ports := rfl
@[simp] theorem withCc_fresh (v : CC) : (s.withCc v).fresh = s.fresh := rfl
@[simp] theorem withCc_pending (v : CC) : (s.withCc v).pending = s.pending := rfl

/-! ### `withFh` -/

@[simp] theorem withFh_pu (v : FH) : (s.withFh v).pu = s.pu := rfl
@[simp] theorem withFh_rs (v : FH) : (s.withFh v).rs = s.rs := rfl
@[simp] theorem withFh_tl (v : FH) : (s.withFh v).tl = s.tl := rfl
@[simp] theorem withFh_fu (v : FH) : (s.withFh v).fu = s.fu := rfl
@[simp] theorem withFh_tr (v : FH) : (s.withFh v).tr = s.tr := rfl
@[simp] theorem withFh_iu (v : FH) : (s.withFh v).iu = s.iu := rfl
@[simp] theorem withFh_cu (v : FH) : (s.withFh v).cu = s.cu := rfl
@[simp] theorem withFh_bq (v : FH) : (s.withFh v).bq = s.bq := rfl
@[simp] theorem withFh_cc (v : FH) : (s.withFh v).cc = s.cc := rfl
@[simp] theorem withFh_fh (v : FH) : (s.withFh v).fh = v := rfl
@[simp] theorem withFh_ports (v : FH) : (s.withFh v).ports = s.ports := rfl
@[simp] theorem withFh_fresh (v : FH) : (s.withFh v).fresh = s.fresh := rfl
@[simp] theorem withFh_pending (v : FH) : (s.withFh v).pending = s.pending := rfl

/-! ### `withPorts` -/

@[simp] theorem withPorts_pu (v : Vector Port 4) : (s.withPorts v).pu = s.pu := rfl
@[simp] theorem withPorts_rs (v : Vector Port 4) : (s.withPorts v).rs = s.rs := rfl
@[simp] theorem withPorts_tl (v : Vector Port 4) : (s.withPorts v).tl = s.tl := rfl
@[simp] theorem withPorts_fu (v : Vector Port 4) : (s.withPorts v).fu = s.fu := rfl
@[simp] theorem withPorts_tr (v : Vector Port 4) : (s.withPorts v).tr = s.tr := rfl
@[simp] theorem withPorts_iu (v : Vector Port 4) : (s.withPorts v).iu = s.iu := rfl
@[simp] theorem withPorts_cu (v : Vector Port 4) : (s.withPorts v).cu = s.cu := rfl
@[simp] theorem withPorts_bq (v : Vector Port 4) : (s.withPorts v).bq = s.bq := rfl
@[simp] theorem withPorts_cc (v : Vector Port 4) : (s.withPorts v).cc = s.cc := rfl
@[simp] theorem withPorts_fh (v : Vector Port 4) : (s.withPorts v).fh = s.fh := rfl
@[simp] theorem withPorts_ports (v : Vector Port 4) : (s.withPorts v).ports = v := rfl
@[simp] theorem withPorts_fresh (v : Vector Port 4) : (s.withPorts v).fresh = s.fresh := rfl
@[simp] theorem withPorts_pending (v : Vector Port 4) : (s.withPorts v).pending = s.pending := rfl

/-! ### `withFresh` -/

@[simp] theorem withFresh_pu (v : Nat) : (s.withFresh v).pu = s.pu := rfl
@[simp] theorem withFresh_rs (v : Nat) : (s.withFresh v).rs = s.rs := rfl
@[simp] theorem withFresh_tl (v : Nat) : (s.withFresh v).tl = s.tl := rfl
@[simp] theorem withFresh_fu (v : Nat) : (s.withFresh v).fu = s.fu := rfl
@[simp] theorem withFresh_tr (v : Nat) : (s.withFresh v).tr = s.tr := rfl
@[simp] theorem withFresh_iu (v : Nat) : (s.withFresh v).iu = s.iu := rfl
@[simp] theorem withFresh_cu (v : Nat) : (s.withFresh v).cu = s.cu := rfl
@[simp] theorem withFresh_bq (v : Nat) : (s.withFresh v).bq = s.bq := rfl
@[simp] theorem withFresh_cc (v : Nat) : (s.withFresh v).cc = s.cc := rfl
@[simp] theorem withFresh_fh (v : Nat) : (s.withFresh v).fh = s.fh := rfl
@[simp] theorem withFresh_ports (v : Nat) : (s.withFresh v).ports = s.ports := rfl
@[simp] theorem withFresh_fresh (v : Nat) : (s.withFresh v).fresh = v := rfl
@[simp] theorem withFresh_pending (v : Nat) : (s.withFresh v).pending = s.pending := rfl

/-! ### `withPending` -/

@[simp] theorem withPending_pu (v : List Instr) : (s.withPending v).pu = s.pu := rfl
@[simp] theorem withPending_rs (v : List Instr) : (s.withPending v).rs = s.rs := rfl
@[simp] theorem withPending_tl (v : List Instr) : (s.withPending v).tl = s.tl := rfl
@[simp] theorem withPending_fu (v : List Instr) : (s.withPending v).fu = s.fu := rfl
@[simp] theorem withPending_tr (v : List Instr) : (s.withPending v).tr = s.tr := rfl
@[simp] theorem withPending_iu (v : List Instr) : (s.withPending v).iu = s.iu := rfl
@[simp] theorem withPending_cu (v : List Instr) : (s.withPending v).cu = s.cu := rfl
@[simp] theorem withPending_bq (v : List Instr) : (s.withPending v).bq = s.bq := rfl
@[simp] theorem withPending_cc (v : List Instr) : (s.withPending v).cc = s.cc := rfl
@[simp] theorem withPending_fh (v : List Instr) : (s.withPending v).fh = s.fh := rfl
@[simp] theorem withPending_ports (v : List Instr) : (s.withPending v).ports = s.ports := rfl
@[simp] theorem withPending_fresh (v : List Instr) : (s.withPending v).fresh = s.fresh := rfl
@[simp] theorem withPending_pending (v : List Instr) : (s.withPending v).pending = v := rfl

end Sys2Proof.Machine
end

