-- ==== Sys2Proof/Laws/Ports.lean ====
section
/-! SUPPORT. What the operations on ports and the making of notices can do: `PortGrow` and nothing else (R178, R186). -/

namespace Sys2Proof.Machine

variable (s : State)

theorem PortGrow.refl (q : Port) : PortGrow q q := ⟨rfl, rfl, rfl, rfl, rfl, ⟨[], by simp⟩, id, id⟩

theorem PortGrow.trans {q r u : Port} (h : PortGrow q r) (k : PortGrow r u) : PortGrow q u := by
  obtain ⟨h1, h2, h3, h4, h5, ⟨l, h6⟩, h7, h8⟩ := h
  obtain ⟨k1, k2, k3, k4, k5, ⟨m, k6⟩, k7, k8⟩ := k
  exact ⟨k1.trans h1, k2.trans h2, k3.trans h3, k4.trans h4, k5.trans h5, ⟨l ++ m, by simp [k6, h6]⟩, k7 ∘ h7, k8 ∘ h8⟩

theorem Port.push_grow (q : Port) (n : NoticeRecord) : PortGrow q (q.push n) := by
  unfold Port.push
  split
  · rename_i h
    exact ⟨rfl, rfl, rfl, rfl, rfl, ⟨[n], rfl⟩, fun _ => by simp; omega, id⟩
  · exact ⟨rfl, rfl, rfl, rfl, rfl, ⟨[], by simp⟩, id, fun _ => rfl⟩

/-! ### Reading a port after an update -/

@[simp] theorem port_withPu (v : PU) (p : PortId) : (s.withPu v).port p = s.port p := rfl
@[simp] theorem port_withRs (v : RS) (p : PortId) : (s.withRs v).port p = s.port p := rfl
@[simp] theorem port_withTl (v : TL) (p : PortId) : (s.withTl v).port p = s.port p := rfl
@[simp] theorem port_withFu (v : FU) (p : PortId) : (s.withFu v).port p = s.port p := rfl
@[simp] theorem port_withTr (v : TR) (p : PortId) : (s.withTr v).port p = s.port p := rfl
@[simp] theorem port_withIu (v : IU) (p : PortId) : (s.withIu v).port p = s.port p := rfl
@[simp] theorem port_withCu (v : CU) (p : PortId) : (s.withCu v).port p = s.port p := rfl
@[simp] theorem port_withBq (v : BQ) (p : PortId) : (s.withBq v).port p = s.port p := rfl
@[simp] theorem port_withCc (v : CC) (p : PortId) : (s.withCc v).port p = s.port p := rfl
@[simp] theorem port_withFh (v : FH) (p : PortId) : (s.withFh v).port p = s.port p := rfl
@[simp] theorem port_withFresh (v : Nat) (p : PortId) : (s.withFresh v).port p = s.port p := rfl
@[simp] theorem port_withPending (v : List Instr) (p : PortId) : (s.withPending v).port p = s.port p := rfl

theorem port_setPort_self (p : PortId) (v : Port) : (s.setPort p v).port p = v := by
  simp [State.port, State.setPort]

theorem port_setPort_ne {p r : PortId} (v : Port) (h : p ≠ r) : (s.setPort p v).port r = s.port r := by
  have : p.val ≠ r.val := fun e => h (Fin.ext e)
  simp [State.port, State.setPort, this]

theorem setPort_setPort (p : PortId) (v w : Port) : (s.setPort p v).setPort p w = s.setPort p w := by
  simp [State.setPort, State.withPorts]

/-! ### Notices -/

/-- A notice changes the ports alone. -/
theorem notify_eq (dest : PortId → Role → Bool) (n : Notice) :
    s.notify dest n = s.withPorts (s.notify dest n).ports := rfl

@[simp] theorem notify_pu (dest : PortId → Role → Bool) (n : Notice) : (s.notify dest n).pu = s.pu := rfl
@[simp] theorem notify_rs (dest : PortId → Role → Bool) (n : Notice) : (s.notify dest n).rs = s.rs := rfl
@[simp] theorem notify_tl (dest : PortId → Role → Bool) (n : Notice) : (s.notify dest n).tl = s.tl := rfl
@[simp] theorem notify_fu (dest : PortId → Role → Bool) (n : Notice) : (s.notify dest n).fu = s.fu := rfl
@[simp] theorem notify_tr (dest : PortId → Role → Bool) (n : Notice) : (s.notify dest n).tr = s.tr := rfl
@[simp] theorem notify_iu (dest : PortId → Role → Bool) (n : Notice) : (s.notify dest n).iu = s.iu := rfl
@[simp] theorem notify_cu (dest : PortId → Role → Bool) (n : Notice) : (s.notify dest n).cu = s.cu := rfl
@[simp] theorem notify_bq (dest : PortId → Role → Bool) (n : Notice) : (s.notify dest n).bq = s.bq := rfl
@[simp] theorem notify_cc (dest : PortId → Role → Bool) (n : Notice) : (s.notify dest n).cc = s.cc := rfl
@[simp] theorem notify_fh (dest : PortId → Role → Bool) (n : Notice) : (s.notify dest n).fh = s.fh := rfl
@[simp] theorem notify_fresh (dest : PortId → Role → Bool) (n : Notice) : (s.notify dest n).fresh = s.fresh := rfl
@[simp] theorem notify_pending (dest : PortId → Role → Bool) (n : Notice) : (s.notify dest n).pending = s.pending := rfl

/-- What a notice does to one port: it joins the queue of a port that is named, and leaves the others. -/
theorem notify_port (dest : PortId → Role → Bool) (n : Notice) (p : PortId) :
    (s.notify dest n).port p = if dest p (s.port p).role then (s.port p).push ⟨s.pu.pitch, n⟩ else s.port p := by
  simp [State.notify, State.port]
  rfl

theorem notify_grow (dest : PortId → Role → Bool) (n : Notice) (p : PortId) :
    PortGrow (s.port p) ((s.notify dest n).port p) := by
  rw [notify_port]
  split
  · exact Port.push_grow _ _
  · exact PortGrow.refl _

/-! ### Commands at a port -/

/-- At an IDLE port a command that passes the checks is clocked in, taken by its owner and answered. -/
theorem takeCommand_idle (p : PortId) (c : Instr) (own : Owner) (hi : (s.port p).transfer = .idle)
    (hg : (s.port p).ignoring = false) (hf : frameRefusal (s.port p).role c = none) :
    s.takeCommand p c own = (own (s.clocked p c)).1.answerPort p (own (s.clocked p c)).2 := by
  simp [State.takeCommand, hi, hg, hf, State.runOwner, State.clocked]

/-- At an IDLE port a command that fails a check is answered with that status, and no owner sees it. -/
theorem takeCommand_refused (p : PortId) (c : Instr) (own : Owner) (st : Status) (hi : (s.port p).transfer = .idle)
    (hg : (s.port p).ignoring = false) (hf : frameRefusal (s.port p).role c = some st) :
    s.takeCommand p c own = (s.clocked p c).answerPort p (.refuse st) := by
  simp [State.takeCommand, hi, hg, hf, State.clocked]

/-- At a port that has this very command in flight its owner takes it and answers. -/
theorem takeCommand_inFlight (p : PortId) (c : Instr) (own : Owner) (hi : (s.port p).transfer = .inFlight c)
    (hg : (s.port p).ignoring = false) : s.takeCommand p c own = (own s).1.answerPort p (own s).2 := by
  simp [State.takeCommand, hi, hg, State.runOwner]

/-- A command that reaches its owner is answered as the owner answers on the state in which it takes it. -/
theorem takeCommand_reaches {p : PortId} {c : Instr} {t : State} (own : Owner) (h : s.reaches p c t) :
    s.takeCommand p c own = (own t).1.answerPort p (own t).2 := by
  obtain ⟨hg, k, hc, ⟨hi, rfl⟩ | ⟨hi, ho, hl, hf, rfl⟩⟩ := h
  · exact takeCommand_inFlight t p c own hi hg
  · refine takeCommand_idle s p c own hi hg ?_
    simp [frameRefusal, hc, ho, hf, Nat.not_lt.mpr hl]

/-- Whatever the port's state, a command row is a transfer, a refusal of the Port Interface, or the owner's work on a state
that differs in the sending port alone; the owner's work is what changes anything else. -/
theorem takeCommand_cases (p : PortId) (c : Instr) (own : Owner) :
    (∃ q, s.takeCommand p c own = s.setPort p q)
      ∨ ∃ q, s.takeCommand p c own = (own (s.setPort p q)).1.answerPort p (own (s.setPort p q)).2 := by
  have hs : s = s.setPort p (s.port p) := by
    simp [State.setPort, State.port, State.withPorts]
  unfold State.takeCommand
  dsimp only
  split
  · exact .inl ⟨_, rfl⟩
  · split
    · split
      · exact .inl ⟨_, by simp only [State.answerPort]; rw [setPort_setPort]⟩
      · exact .inr ⟨_, rfl⟩
    · split
      · refine .inr ⟨s.port p, ?_⟩
        rw [← hs]
        rfl
      · exact .inl ⟨_, rfl⟩
    · exact .inl ⟨_, rfl⟩
    · exact .inl ⟨_, rfl⟩

end Sys2Proof.Machine
end

