-- ==== Sys2Proof/Laws/Frames.lean ====
section
/-! SUPPORT. The frames that proofs about motion cite: what the Firing Unit's work leaves alone, what the passing of points
leaves alone, what every event of motion leaves alone. Each is reflexive and transitive. -/

namespace Sys2Proof.Machine

/-! ### Records -/

/-- The second record is the first with, at most, more defects (R46). -/
def DefectsOnly (r q : Record) : Prop := q = { r with defects := q.defects } ∧ ∀ c, hasCode r.defects c → hasCode q.defects c

/-- The second record is the first with, at most, more defects and the BLANK effect of a probe (R46, R53). -/
def MarksOnly (r q : Record) : Prop :=
  q = { r with defects := q.defects, void := q.void, status := q.status }
    ∧ (∀ c, hasCode r.defects c → hasCode q.defects c) ∧ (r.void = true → q.void = true)

theorem DefectsOnly.refl (r : Record) : DefectsOnly r r := ⟨rfl, fun _ h => h⟩

theorem DefectsOnly.trans {r q u : Record} (h : DefectsOnly r q) (k : DefectsOnly q u) : DefectsOnly r u := by
  obtain ⟨h1, h2⟩ := h
  obtain ⟨k1, k2⟩ := k
  refine ⟨?_, fun c hc => k2 c (h2 c hc)⟩
  rw [h1] at k1
  exact k1

theorem MarksOnly.refl (r : Record) : MarksOnly r r := ⟨rfl, fun _ h => h, id⟩

theorem MarksOnly.trans {r q u : Record} (h : MarksOnly r q) (k : MarksOnly q u) : MarksOnly r u := by
  obtain ⟨h1, h2, h3⟩ := h
  obtain ⟨k1, k2, k3⟩ := k
  refine ⟨?_, fun c hc => k2 c (h2 c hc), k3 ∘ h3⟩
  rw [h1] at k1
  exact k1

theorem DefectsOnly.marks {r q : Record} (h : DefectsOnly r q) : MarksOnly r q := by
  obtain ⟨h1, h2⟩ := h
  refine ⟨?_, h2, ?_⟩
  · rw [h1]
  · rw [h1]
    exact id

theorem hasCode_addCode (d : CodeSet) (c k : Code) : hasCode (addCode d c) k = (hasCode d k || decide (c = k)) := by
  revert c k
  simp only [hasCode, addCode, codeSet, BitVec.getLsbD_or, BitVec.getLsbD_shiftLeft]
  intro c k
  congr 1
  revert c k
  decide

theorem DefectsOnly.addDefect (r : Record) (c : Code) : DefectsOnly r (r.addDefect c) :=
  ⟨rfl, fun k h => by simp [Record.addDefect, hasCode_addCode, h]⟩

/-- Lists of records that agree place by place up to a relation. -/
inductive Rings (rel : Record → Record → Prop) : List Record → List Record → Prop where
  | nil : Rings rel [] []
  | cons {a b : Record} {l m : List Record} : rel a b → Rings rel l m → Rings rel (a :: l) (b :: m)

theorem Rings.refl {rel : Record → Record → Prop} (h : ∀ r, rel r r) (l : List Record) : Rings rel l l := by
  induction l with
  | nil => exact .nil
  | cons r l ih => exact .cons (h r) ih

theorem Rings.trans {rel : Record → Record → Prop} (h : ∀ a b c, rel a b → rel b c → rel a c) :
    ∀ {l m n : List Record}, Rings rel l m → Rings rel m n → Rings rel l n
  | _, _, _, .nil, .nil => .nil
  | _, _, _, .cons a b, .cons c d => .cons (h _ _ _ a c) (Rings.trans h b d)

theorem Rings.mono {rel rel' : Record → Record → Prop} (h : ∀ a b, rel a b → rel' a b) {l m : List Record}
    (k : Rings rel l m) : Rings rel' l m := by
  induction k with
  | nil => exact .nil
  | cons a _ ih => exact .cons (h _ _ a) ih

theorem Rings.length {rel : Record → Record → Prop} {l m : List Record} (k : Rings rel l m) : m.length = l.length := by
  induction k with
  | nil => rfl
  | cons _ _ ih => simp [ih]

/-- The records at one place of two rings that agree. -/
theorem Rings.get {rel : Record → Record → Prop} {l m : List Record} (k : Rings rel l m) :
    ∀ {i : Nat} {q : Record}, m[i]? = some q → ∃ r, l[i]? = some r ∧ rel r q := by
  induction k with
  | nil => intro i q h; simp at h
  | cons a _ ih =>
    intro i q h
    cases i with
    | zero =>
      simp only [List.getElem?_cons_zero, Option.some.injEq] at h
      subst h
      exact ⟨_, rfl, a⟩
    | succ n => simpa using ih (by simpa using h)

theorem Rings.map {rel : Record → Record → Prop} (f : Record → Record) (h : ∀ r, rel r (f r)) (l : List Record) :
    Rings rel l (l.map f) := by
  induction l with
  | nil => exact .nil
  | cons r l ih => exact .cons (h r) ih

theorem Rings.modify {rel : Record → Record → Prop} (hr : ∀ r, rel r r) (f : Record → Record) (h : ∀ r, rel r (f r)) :
    ∀ (l : List Record) (n : Nat), Rings rel l (l.modify n f)
  | [], n => by cases n <;> exact .nil
  | r :: l, 0 => by
    rw [List.modify_zero_cons]
    exact .cons (h r) (Rings.refl hr l)
  | r :: l, n + 1 => by
    rw [List.modify_succ_cons]
    exact .cons (hr r) (Rings.modify hr f h l n)

/-! ### States -/

/-- The Firing Unit's work (04): the outputs, the defects of records, the notices made. The configurations of the outputs
stay. -/
structure FiringFrame (s t : State) : Prop where
  pu : t.pu = s.pu
  rs : t.rs = s.rs
  tr : t.tr = s.tr
  iu : t.iu = s.iu
  cu : t.cu = s.cu
  bq : t.bq = s.bq
  cc : t.cc = s.cc
  fh : t.fh = s.fh
  fresh : t.fresh = s.fresh
  pending : t.pending = s.pending
  tl : t.tl = { s.tl with ring := t.tl.ring }
  ring : Rings DefectsOnly s.tl.ring t.tl.ring
  ports : ∀ p, PortGrow (s.port p) (t.port p)
  outputs : ∀ o, (t.output o).config = (s.output o).config

/-- The passing of points (R5): the outputs, the marks of records, the probes' observation, the births uncounted. -/
structure PassFrame (s t : State) : Prop where
  pu : t.pu = s.pu
  rs : t.rs = s.rs
  tr : t.tr = s.tr
  iu : t.iu = s.iu
  cu : t.cu = s.cu
  bq : t.bq = s.bq
  cc : t.cc = { s.cc with births := t.cc.births, lastCounted := t.cc.lastCounted }
  fh : t.fh = s.fh
  fresh : t.fresh = s.fresh
  pending : t.pending = s.pending
  tl : t.tl = { s.tl with ring := t.tl.ring, probes := t.tl.probes }
  ring : Rings MarksOnly s.tl.ring t.tl.ring
  ports : ∀ p, PortGrow (s.port p) (t.port p)
  outputs : ∀ o, (t.output o).config = (s.output o).config
  probes : ∀ i, (t.probe i).config = (s.probe i).config

/-- What no event of motion or of time changes: the stores, the configurations, the trim groups, the queue, and of the ports
anything but the notices made. -/
structure Keeps (s t : State) : Prop where
  rs : t.rs = s.rs
  tr : t.tr = s.tr
  config : t.pu.config = s.pu.config
  pending : t.pending = s.pending
  ports : ∀ p, PortGrow (s.port p) (t.port p)
  points : ∀ i, (t.point i).config = (s.point i).config
  outputs : ∀ o, (t.output o).config = (s.output o).config
  probes : ∀ i, (t.probe i).config = (s.probe i).config

theorem FiringFrame.refl (s : State) : FiringFrame s s :=
  ⟨rfl, rfl, rfl, rfl, rfl, rfl, rfl, rfl, rfl, rfl, rfl, Rings.refl DefectsOnly.refl _, fun _ => PortGrow.refl _, fun _ => rfl⟩

theorem FiringFrame.trans {s t u : State} (h : FiringFrame s t) (k : FiringFrame t u) : FiringFrame s u where
  pu := k.pu.trans h.pu
  rs := k.rs.trans h.rs
  tr := k.tr.trans h.tr
  iu := k.iu.trans h.iu
  cu := k.cu.trans h.cu
  bq := k.bq.trans h.bq
  cc := k.cc.trans h.cc
  fh := k.fh.trans h.fh
  fresh := k.fresh.trans h.fresh
  pending := k.pending.trans h.pending
  tl := by
    have a := k.tl
    rw [h.tl] at a
    exact a
  ring := Rings.trans (rel := DefectsOnly) (fun _ _ _ => DefectsOnly.trans) h.ring k.ring
  ports := fun p => (h.ports p).trans (k.ports p)
  outputs := fun o => (k.outputs o).trans (h.outputs o)

theorem PassFrame.refl (s : State) : PassFrame s s :=
  ⟨rfl, rfl, rfl, rfl, rfl, rfl, rfl, rfl, rfl, rfl, rfl, Rings.refl MarksOnly.refl _, fun _ => PortGrow.refl _, fun _ => rfl,
    fun _ => rfl⟩

theorem PassFrame.trans {s t u : State} (h : PassFrame s t) (k : PassFrame t u) : PassFrame s u where
  pu := k.pu.trans h.pu
  rs := k.rs.trans h.rs
  tr := k.tr.trans h.tr
  iu := k.iu.trans h.iu
  cu := k.cu.trans h.cu
  bq := k.bq.trans h.bq
  cc := by
    have a := k.cc
    rw [h.cc] at a
    exact a
  fh := k.fh.trans h.fh
  fresh := k.fresh.trans h.fresh
  pending := k.pending.trans h.pending
  tl := by
    have a := k.tl
    rw [h.tl] at a
    exact a
  ring := Rings.trans (rel := MarksOnly) (fun _ _ _ => MarksOnly.trans) h.ring k.ring
  ports := fun p => (h.ports p).trans (k.ports p)
  outputs := fun o => (k.outputs o).trans (h.outputs o)
  probes := fun i => (k.probes i).trans (h.probes i)

theorem FiringFrame.probes {s t : State} (h : FiringFrame s t) (i : Fin 6) : t.probe i = s.probe i := by
  simp only [State.probe]
  rw [h.tl]

theorem FiringFrame.pass {s t : State} (h : FiringFrame s t) : PassFrame s t where
  pu := h.pu
  rs := h.rs
  tr := h.tr
  iu := h.iu
  cu := h.cu
  bq := h.bq
  cc := by rw [h.cc]
  fh := h.fh
  fresh := h.fresh
  pending := h.pending
  tl := by rw [h.tl]
  ring := h.ring.mono fun _ _ => DefectsOnly.marks
  ports := h.ports
  outputs := h.outputs
  probes := fun i => by rw [h.probes]

theorem PassFrame.point {s t : State} (h : PassFrame s t) (i : Fin 4) : t.point i = s.point i := by
  simp only [State.point]
  rw [h.iu]

theorem PassFrame.keeps {s t : State} (h : PassFrame s t) : Keeps s t where
  rs := h.rs
  tr := h.tr
  config := by rw [h.pu]
  pending := h.pending
  ports := h.ports
  points := fun i => by rw [h.point]
  outputs := h.outputs
  probes := h.probes

theorem Keeps.refl (s : State) : Keeps s s := (PassFrame.refl s).keeps

theorem Keeps.trans {s t u : State} (h : Keeps s t) (k : Keeps t u) : Keeps s u where
  rs := k.rs.trans h.rs
  tr := k.tr.trans h.tr
  config := k.config.trans h.config
  pending := k.pending.trans h.pending
  ports := fun p => (h.ports p).trans (k.ports p)
  points := fun i => (k.points i).trans (h.points i)
  outputs := fun o => (k.outputs o).trans (h.outputs o)
  probes := fun i => (k.probes i).trans (h.probes i)

/-- A fold of operations that each stay in a reflexive and transitive frame stays in it. -/
theorem fold_frame {α : Type} {rel : State → State → Prop} (hr : ∀ s, rel s s) (ht : ∀ a b c, rel a b → rel b c → rel a c)
    (f : State → α → State) (h : ∀ s a, rel s (f s a)) : ∀ (l : List α) (s : State), rel s (l.foldl f s)
  | [], s => hr s
  | a :: l, s => ht _ _ _ (h s a) (fold_frame hr ht f h l (f s a))

end Sys2Proof.Machine
end

