-- ==== Sys2Proof/Laws/Firing.lean ====
section
/-! SUPPORT. Every operation of the Firing Unit stays in `FiringFrame`; and what the arithmetic of section 4.6 can give. -/

namespace Sys2Proof.Machine

variable (s : State)

/-! ### Reading an output after an update -/

theorem output_setOutput_self (o : OutId) (u : OutputUnit) : (s.setOutput o u).output o = u := by
  simp [State.output, State.setOutput]

theorem output_setOutput_ne {o k : OutId} (u : OutputUnit) (h : o ≠ k) : (s.setOutput o u).output k = s.output k := by
  have : o.val ≠ k.val := fun e => h (Fin.ext e)
  simp [State.output, State.setOutput, this]

@[simp] theorem output_withPu (v : PU) (o : OutId) : (s.withPu v).output o = s.output o := rfl
@[simp] theorem output_withTl (v : TL) (o : OutId) : (s.withTl v).output o = s.output o := rfl
@[simp] theorem output_withCc (v : CC) (o : OutId) : (s.withCc v).output o = s.output o := rfl
@[simp] theorem output_setPort (p : PortId) (v : Port) (o : OutId) : (s.setPort p v).output o = s.output o := rfl
@[simp] theorem output_notify (dest : PortId → Role → Bool) (n : Notice) (o : OutId) :
    (s.notify dest n).output o = s.output o := rfl
@[simp] theorem output_setRing (l : List Record) (o : OutId) : (s.setRing l).output o = s.output o := rfl
@[simp] theorem output_modifyRecord (k : Word32) (f : Record → Record) (o : OutId) :
    (s.modifyRecord k f).output o = s.output o := rfl

/-! ### The three ways a state changes in the frame -/

theorem firing_fu (v : FU) (h : ∀ o, ((s.withFu v).output o).config = (s.output o).config) : FiringFrame s (s.withFu v) :=
  ⟨rfl, rfl, rfl, rfl, rfl, rfl, rfl, rfl, rfl, rfl, rfl, Rings.refl DefectsOnly.refl _, fun _ => PortGrow.refl _, h⟩

theorem firing_setOutput (o : OutId) (u : OutputUnit) (h : u.config = (s.output o).config) :
    FiringFrame s (s.setOutput o u) := by
  refine firing_fu s _ fun k => ?_
  by_cases e : o = k
  · subst e
    exact (congrArg OutputUnit.config (output_setOutput_self s o u)).trans h
  · exact congrArg OutputUnit.config (output_setOutput_ne s u e)

theorem output_withFu (f : OutId → OutputUnit) (o : OutId) : (s.withFu ⟨Vector.ofFn f⟩).output o = f o := by
  simp [State.output]

theorem firing_withFu (f : OutId → OutputUnit) (h : ∀ o, (f o).config = (s.output o).config) :
    FiringFrame s (s.withFu ⟨Vector.ofFn f⟩) := by
  refine firing_fu s _ fun o => ?_
  rw [output_withFu]
  exact h o

theorem firing_modifyRecord (k : Word32) (c : Code) : FiringFrame s (s.modifyRecord k (fun r => r.addDefect c)) := by
  refine ⟨rfl, rfl, rfl, rfl, rfl, rfl, rfl, rfl, rfl, rfl, rfl, ?_, fun _ => PortGrow.refl _, fun _ => rfl⟩
  refine Rings.map _ (fun r => ?_) _
  dsimp only
  split
  · exact DefectsOnly.addDefect _ _
  · exact DefectsOnly.refl _

theorem firing_notify (dest : PortId → Role → Bool) (n : Notice) : FiringFrame s (s.notify dest n) :=
  ⟨rfl, rfl, rfl, rfl, rfl, rfl, rfl, rfl, rfl, rfl, rfl, Rings.refl DefectsOnly.refl _, notify_grow s dest n, fun _ => by rw [output_notify]⟩

theorem firing_fold {α : Type} (f : State → α → State) (h : ∀ s a, FiringFrame s (f s a)) (l : List α) :
    FiringFrame s (l.foldl f s) := fold_frame FiringFrame.refl (fun _ _ _ => FiringFrame.trans) f h l s

/-! ### Omissions and judgement -/

theorem writeOmission_frame (c : OutputConfig) (k : Word32) : FiringFrame s (s.writeOmission c k) := by
  unfold State.writeOmission
  split
  · exact firing_modifyRecord s _ _
  · exact .refl s

theorem omitPassed_frame (c : OutputConfig) (k : Word32) : FiringFrame s (s.omitPassed c k) := by
  unfold State.omitPassed
  split
  · exact writeOmission_frame s _ _
  · exact .refl s

theorem omitTested_frame (c : OutputConfig) (k : Word32) : FiringFrame s (s.omitTested c k) := by
  unfold State.omitTested
  split
  · exact writeOmission_frame s _ _
  · exact .refl s

theorem beginPulse_frame (o : OutId) (q : Occurrence) : FiringFrame s (s.beginPulse o q) := by
  have a : FiringFrame s (s.setOutput o { s.output o with
      pulses := (s.output o).pulses ++ [⟨q.seq, q.segment, q.expiry, q.k⟩] }) := firing_setOutput s o _ rfl
  unfold State.beginPulse
  dsimp only
  split
  · exact a.trans (firing_modifyRecord _ _ _)
  · exact a

theorem applyJudgement_frame (o : OutId) (q : Occurrence) (j : Judgement) :
    FiringFrame s (s.applyJudgement o q j).1 := by
  cases j
  · exact .refl s
  · exact .refl s
  · exact omitPassed_frame s _ _
  · exact beginPulse_frame s _ _
  · exact omitTested_frame s _ _

theorem judgeList_frame (o : OutId) (angle ahead : Nat) :
    ∀ (l : List Occurrence) (s : State), FiringFrame s (State.judgeList o angle ahead l s).1
  | [], s => .refl s
  | q :: rest, s =>
    (applyJudgement_frame s o q _).trans (judgeList_frame o angle ahead rest _)

theorem judgeOutput_frame (angle ahead : Nat) (o : OutId) : FiringFrame s (s.judgeOutput angle ahead o) :=
  (judgeList_frame o angle ahead _ s).trans (firing_setOutput _ _ _ rfl)

theorem judgeAll_frame (angle ahead : Nat) : FiringFrame s (s.judgeAll angle ahead) := by
  unfold State.judgeAll
  split
  · exact firing_fold s _ (fun s o => judgeOutput_frame s angle ahead o) _
  · exact .refl s

theorem judgeHere_frame (o : OutId) : FiringFrame s (s.judgeHere o) := by
  unfold State.judgeHere
  split
  · exact judgeOutput_frame s _ _ _
  · exact .refl s

/-! ### Pulses -/

theorem endPulses_frame : FiringFrame s s.endPulses := firing_withFu s _ fun _ => rfl

theorem forceOff_frame (o : OutId) : FiringFrame s (s.forceOff o) :=
  (firing_setOutput s o { s.output o with pulses := [] } rfl).trans
    (firing_fold _ _ (fun t (q : Pulse) => omitPassed_frame t (s.output o).config q.seq) _)

theorem forceOffAll_frame : FiringFrame s s.forceOffAll := firing_fold s _ forceOff_frame _

theorem forceOffRunOnly_frame : FiringFrame s s.forceOffRunOnly := by
  refine firing_fold s _ (fun s o => ?_) _
  split
  · exact forceOff_frame s o
  · exact .refl s

theorem endTests_frame : FiringFrame s s.endTests := firing_withFu s _ fun _ => rfl

theorem elapse_frame (n : Nat) : FiringFrame s (s.elapse n) := firing_withFu s _ fun _ => rfl

/-! ### Recomputation -/

theorem recomputeOutput_frame (o : OutId) : FiringFrame s (s.recomputeOutput o) := by
  unfold State.recomputeOutput
  dsimp only
  split
  · split
    · exact firing_setOutput s o _ rfl
    · exact (firing_setOutput s o _ (by rfl)).trans (firing_notify _ _ _)
  · split
    · exact (firing_setOutput s o _ (by rfl)).trans (firing_notify _ _ _)
    · exact firing_setOutput s o _ rfl

theorem takeSpeed_frame : FiringFrame s s.takeSpeed :=
  (firing_fold s _ recomputeOutput_frame _).trans (judgeAll_frame _ _ _)

theorem takeTrim_frame (g : Fin 3) : FiringFrame s (s.takeTrim g) := by
  refine firing_fold s _ (fun s o => ?_) _
  dsimp only
  split
  · exact (firing_setOutput s o _ (by rfl)).trans (judgeHere_frame _ _)
  · exact .refl s

/-! ### Arming and the ends of work -/

theorem armOutput_frame (o : OutId) : FiringFrame s (s.armOutput o) := by
  unfold State.armOutput
  dsimp only
  split
  · split
    · split
      · exact firing_setOutput s o _ rfl
      · exact .refl s
    · exact .refl s
  · exact .refl s

theorem armAll_frame : FiringFrame s s.armAll := firing_fold s _ armOutput_frame _

theorem advanceFiring_frame : FiringFrame s s.advanceFiring := firing_withFu s _ fun _ => rfl

theorem expireLate_frame : FiringFrame s s.expireLate := by
  unfold State.expireLate
  split
  · refine firing_fold s _ (fun s o => ?_) _
    exact (firing_setOutput s o { s.output o with armed := (s.output o).armed.filter (fun q => decide (q.k < 2)) } rfl).trans
      (firing_fold _ _ (fun t (q : Occurrence) => omitTested_frame t (s.output o).config q.seq) _)
  · exact .refl s

theorem clearFiring_frame : FiringFrame s s.clearFiring := firing_withFu s _ fun _ => rfl

theorem endWork_frame (o : OutId) : FiringFrame s (s.endWork o) :=
  ((firing_setOutput s o { s.output o with armed := [], pulses := [], test := none } rfl).trans
    (firing_fold _ _ (fun t (q : Occurrence) => omitTested_frame t (s.output o).config q.seq) _)).trans
    (firing_fold _ _ (fun t (q : Pulse) => omitPassed_frame t (s.output o).config q.seq) _)

/-! ### Arithmetic -/

/-- R73: every advance lies within 0 to 2,048. -/
theorem advance_le (latency speed : Nat) : advance latency speed ≤ advanceLimit := Nat.min_le_left _ _

/-- R75: every effective width lies within 1 to 4,095. -/
theorem effectiveWidth_range (w t aOn aOff : Nat) :
    1 ≤ effectiveWidth w t aOn aOff ∧ effectiveWidth w t aOn aOff ≤ 4095 := by
  simp only [effectiveWidth, clampInt]
  omega

/-- R74: every trimmed width lies within 1 to 4,095. -/
theorem trimmedWidth_range (w t : Nat) : 1 ≤ trimmedWidth w t ∧ trimmedWidth w t ≤ 4095 := by
  simp only [trimmedWidth]
  omega

end Sys2Proof.Machine
end

