-- ==== Sys2Proof/Laws/Motion.lean ====
section
/-! SUPPORT. Every event of motion and of time stays in `Keeps`; the passing of points stays in `PassFrame`. -/

namespace Sys2Proof.Machine

variable (s : State)

/-! ### Updates of one block -/

theorem keeps_withPu (v : PU) (h : v.config = s.pu.config) : Keeps s (s.withPu v) :=
  ⟨rfl, rfl, h, rfl, fun _ => PortGrow.refl _, fun _ => rfl, fun _ => rfl, fun _ => rfl⟩

theorem keeps_withTl (v : TL) (h : ∀ i : Fin 6, (v.probes[i]).config = (s.probe i).config) : Keeps s (s.withTl v) :=
  ⟨rfl, rfl, rfl, rfl, fun _ => PortGrow.refl _, fun _ => rfl, fun _ => rfl, h⟩

theorem keeps_withCu (v : CU) : Keeps s (s.withCu v) :=
  ⟨rfl, rfl, rfl, rfl, fun _ => PortGrow.refl _, fun _ => rfl, fun _ => rfl, fun _ => rfl⟩

theorem keeps_withBq (v : BQ) : Keeps s (s.withBq v) :=
  ⟨rfl, rfl, rfl, rfl, fun _ => PortGrow.refl _, fun _ => rfl, fun _ => rfl, fun _ => rfl⟩

theorem keeps_withCc (v : CC) : Keeps s (s.withCc v) :=
  ⟨rfl, rfl, rfl, rfl, fun _ => PortGrow.refl _, fun _ => rfl, fun _ => rfl, fun _ => rfl⟩

theorem keeps_withFh (v : FH) : Keeps s (s.withFh v) :=
  ⟨rfl, rfl, rfl, rfl, fun _ => PortGrow.refl _, fun _ => rfl, fun _ => rfl, fun _ => rfl⟩

theorem keeps_withFresh (v : Nat) : Keeps s (s.withFresh v) :=
  ⟨rfl, rfl, rfl, rfl, fun _ => PortGrow.refl _, fun _ => rfl, fun _ => rfl, fun _ => rfl⟩

theorem keeps_notify (dest : PortId → Role → Bool) (n : Notice) : Keeps s (s.notify dest n) := (firing_notify s dest n).pass.keeps

theorem keeps_setRing (l : List Record) : Keeps s (s.setRing l) := keeps_withTl s _ fun _ => rfl

theorem keeps_modifyAt (pos : Nat) (f : Record → Record) : Keeps s (s.modifyAt pos f) := keeps_setRing s _

theorem point_setPoint_self (i : Fin 4) (u : PointUnit) : (s.setPoint i u).point i = u := by
  simp [State.point, State.setPoint]

theorem point_setPoint_ne {i j : Fin 4} (u : PointUnit) (h : i ≠ j) : (s.setPoint i u).point j = s.point j := by
  have : i.val ≠ j.val := fun e => h (Fin.ext e)
  simp [State.point, State.setPoint, this]

theorem keeps_setPoint (i : Fin 4) (u : PointUnit) (h : u.config = (s.point i).config) : Keeps s (s.setPoint i u) := by
  refine ⟨rfl, rfl, rfl, rfl, fun _ => PortGrow.refl _, fun j => ?_, fun _ => rfl, fun _ => rfl⟩
  by_cases e : i = j
  · subst e
    exact (congrArg PointUnit.config (point_setPoint_self s i u)).trans h
  · exact congrArg PointUnit.config (point_setPoint_ne s u e)

theorem keeps_fold {α : Type} (f : State → α → State) (h : ∀ s a, Keeps s (f s a)) (l : List α) : Keeps s (l.foldl f s) :=
  fold_frame Keeps.refl (fun _ _ _ => Keeps.trans) f h l s

/-! ### Hold causes and faults -/

theorem refreshHold_keeps : Keeps s s.refreshHold := by
  unfold State.refreshHold
  dsimp only
  split
  · exact .refl s
  · exact (keeps_withFh s _).trans (keeps_notify _ _ _)

theorem setOffline_keeps (i : Fin 4) (v : Bool) : Keeps s (s.setOffline i v) :=
  (keeps_withFh s _).trans (refreshHold_keeps _)

theorem raiseFault_keeps (f : TrackFault) (e : Int) : Keeps s (s.raiseFault f e) := by
  have a : Keeps s (s.disturb.withFh (s.fh.setLatch f (s.fh.latch f).raised)) := (keeps_setRing s _).trans (keeps_withFh _ _)
  unfold State.raiseFault
  dsimp only
  split
  · exact a
  · exact (a.trans (keeps_notify _ _ _)).trans (refreshHold_keeps _)

theorem setBacklog_keeps (v : Bool) : Keeps s (s.setBacklog v) := (keeps_withBq s _).trans (keeps_withFh _ _)

theorem testBacklog_keeps : Keeps s s.testBacklog := by
  unfold State.testBacklog
  dsimp only
  split
  · exact ((setBacklog_keeps s _).trans (keeps_notify _ _ _)).trans (refreshHold_keeps _)
  · split
    · exact (setBacklog_keeps s _).trans (refreshHold_keeps _)
    · exact .refl s

/-! ### Counting -/

theorem modifyRun_keeps (run : Word32) (f : RunRecord → RunRecord) : Keeps s (s.modifyRun run f) :=
  keeps_withTl s _ fun _ => rfl

theorem completeEnding_keeps : Keeps s s.completeEnding := by
  unfold State.completeEnding
  split
  · exact ((keeps_notify s _ _).trans (keeps_withTl _ _ (fun _ => by rfl))).trans (keeps_withCc _ _)
  · exact .refl s

theorem countInBatch_keeps (r : Record) : Keeps s (s.countInBatch r) := by
  unfold State.countInBatch
  split
  · exact .refl s
  · dsimp only
    split
    · exact (keeps_withCu s _).trans (keeps_modifyAt _ _ _)
    · exact keeps_withCu s _
    · exact keeps_withCu s _
    · exact .refl s
    · exact .refl s

theorem countRecord_keeps (r : Record) : Keeps s (s.countRecord r) := by
  unfold State.countRecord
  dsimp only
  split
  · exact (countInBatch_keeps s r).trans (modifyRun_keeps _ _ _)
  · exact countInBatch_keeps s r

theorem closeWith_keeps (e : BoxEntry) : Keeps s (s.closeWith e) :=
  (((keeps_withBq s _).trans (keeps_notify _ _ _)).trans (testBacklog_keeps _)).trans (keeps_withCu _ _)

theorem discardBatch_keeps : Keeps s s.discardBatch := keeps_withCu s _

theorem endBatch_keeps (reason : CloseReason) : Keeps s (s.endBatch reason) := by
  unfold State.endBatch
  split
  · exact (keeps_modifyAt s _ _).trans (closeWith_keeps _ _)
  · exact discardBatch_keeps s

theorem clearBatch_keeps : Keeps s s.clearBatch := by
  unfold State.clearBatch
  split
  · exact closeWith_keeps s _
  · exact discardBatch_keeps s

theorem closeTests_keeps (r : Record) : Keeps s (s.closeTests r) := by
  unfold State.closeTests
  split
  · exact ((endBatch_keeps s _).trans (keeps_withCu _ _)).trans (completeEnding_keeps _)
  · split
    · exact (endBatch_keeps s _).trans (keeps_withCu _ _)
    · split
      · unfold State.fullClose
        split
        · exact endBatch_keeps s _
        · exact keeps_withCu s _
      · exact .refl s

theorem countArrival_keeps : Keeps s s.countArrival := by
  unfold State.countArrival
  split
  · exact (countRecord_keeps s _).trans (closeTests_keeps _ _)
  · exact .refl s

/-! ### Changeover -/

theorem endCurrent_keeps : Keeps s s.endCurrent := by
  unfold State.endCurrent
  split
  · split
    · exact ((keeps_modifyAt s _ _).trans (keeps_withTl _ _ (fun _ => by rfl))).trans (keeps_withCc _ _)
    · exact keeps_withCc s _
  · split
    · exact ((keeps_notify s _ _).trans (keeps_withTl _ _ (fun _ => by rfl))).trans (keeps_withCc _ _)
    · exact keeps_withCc s _

theorem openRun_keeps (j : SlotId) : Keeps s (s.openRun j) :=
  (keeps_withTl s _ (fun _ => by rfl)).trans (keeps_withCc _ _)

theorem takeSwitch_keeps (slot : Option SlotId) : Keeps s (s.takeSwitch slot) := by
  unfold State.takeSwitch
  cases slot with
  | none => exact ((endCurrent_keeps s).trans (keeps_notify _ _ _)).trans (keeps_withCc _ _)
  | some j => exact (((endCurrent_keeps s).trans (openRun_keeps _ j)).trans (keeps_notify _ _ _)).trans (keeps_withCc _ _)

theorem switchTest_keeps : Keeps s s.switchTest := by
  unfold State.switchTest
  split
  · split
    · split
      · exact takeSwitch_keeps s _
      · unfold State.deferSwitch
        split
        · exact .refl s
        · exact (keeps_notify s _ _).trans (keeps_withCc _ _)
    · exact .refl s
  · exact .refl s

theorem countBirth_keeps (r : Record) : Keeps s (s.countBirth r) := by
  unfold State.countBirth
  split
  · exact keeps_withCc s _
  · exact .refl s

/-! ### The passing of points -/

theorem pass_modifyAt (pos : Nat) (f : Record → Record) (h : ∀ r, MarksOnly r (f r)) : PassFrame s (s.modifyAt pos f) :=
  ⟨rfl, rfl, rfl, rfl, rfl, rfl, rfl, rfl, rfl, rfl, rfl, Rings.modify MarksOnly.refl f h _ _, fun _ => PortGrow.refl _,
    fun _ => rfl, fun _ => rfl⟩

theorem pass_uncountBirth (r : Record) : PassFrame s (s.uncountBirth r) := by
  unfold State.uncountBirth
  split
  · exact ⟨rfl, rfl, rfl, rfl, rfl, rfl, rfl, rfl, rfl, rfl, rfl, Rings.refl MarksOnly.refl _, fun _ => PortGrow.refl _,
      fun _ => rfl, fun _ => rfl⟩
  · exact .refl s

theorem MarksOnly.blank (r : Record) : MarksOnly r r.blank := by
  unfold Record.blank
  split
  · exact .refl r
  · exact ⟨rfl, fun _ h => h, fun _ => rfl⟩

theorem probeEffect_frame (c : ProbeConfig) (r : Record) : PassFrame s (s.probeEffect c r) := by
  unfold State.probeEffect
  split
  · exact pass_modifyAt s _ _ fun r => (DefectsOnly.addDefect r _).marks
  · dsimp only
    split
    · exact pass_modifyAt s _ _ MarksOnly.blank
    · exact (pass_modifyAt s _ _ MarksOnly.blank).trans (pass_uncountBirth _ _)

theorem probe_setProbe_self (i : Fin 6) (u : ProbeUnit) : (s.setProbe i u).probe i = u := by
  simp [State.probe, State.setProbe]

theorem probe_setProbe_ne {i j : Fin 6} (u : ProbeUnit) (h : i ≠ j) : (s.setProbe i u).probe j = s.probe j := by
  have : i.val ≠ j.val := fun e => h (Fin.ext e)
  simp [State.probe, State.setProbe, this]

theorem pass_setProbe (i : Fin 6) (u : ProbeUnit) (h : u.config = (s.probe i).config) : PassFrame s (s.setProbe i u) := by
  refine ⟨rfl, rfl, rfl, rfl, rfl, rfl, rfl, rfl, rfl, rfl, rfl, Rings.refl MarksOnly.refl _, fun _ => PortGrow.refl _,
    fun _ => rfl, fun j => ?_⟩
  by_cases e : i = j
  · subst e
    exact (congrArg ProbeUnit.config (probe_setProbe_self s i u)).trans h
  · exact congrArg ProbeUnit.config (probe_setProbe_ne s u e)

theorem passOffAngle_frame (i : Fin 6) : PassFrame s (s.passOffAngle i) := by
  unfold State.passOffAngle
  dsimp only
  split
  · split
    · exact .refl s
    · split
      · exact (probeEffect_frame s _ _).trans (pass_setProbe _ _ _ ((probeEffect_frame s _ _).probes i).symm)
      · exact pass_setProbe s _ _ rfl
  · exact .refl s

/-- The passing of points changes nothing but outputs, marks of records, the probes' observation and uncounted births. -/
theorem passForward_frame (lo hi ahead : Nat) : PassFrame s (s.passForward lo hi ahead) := by
  refine PassFrame.trans (fold_frame PassFrame.refl (fun _ _ _ => PassFrame.trans) _ (fun t (i : Fin 6) => ?_) _ s)
    (judgeAll_frame _ _ _).pass
  exact (judgeAll_frame t _ _).pass.trans (passOffAngle_frame _ i)

/-! ### The pitch advance -/

theorem clearSeen_keeps : Keeps s s.clearSeen := keeps_withTl s _ fun i => by simp [State.probe]

theorem birth_keeps : Keeps s s.birth :=
  (keeps_withTl s _ (fun _ => by rfl)).trans (countBirth_keeps _ _)

theorem inspectionArrival_keeps (i : Fin 4) : Keeps s (s.inspectionArrival i) := by
  unfold State.inspectionArrival
  dsimp only
  split
  · split
    · split
      · exact keeps_modifyAt s _ _
      · exact keeps_notify s _ _
    · exact .refl s
  · exact .refl s

theorem takeOffline_keeps (i : Fin 4) (k : Word32) : Keeps s (s.takeOffline i k) :=
  ((keeps_setPoint s i { s.point i with offline := true } rfl).trans (keeps_notify _ _ _)).trans (setOffline_keeps _ _ _)

theorem missed_keeps (i : Fin 4) (r : Record) (n : Nat) :
    Keeps s (((s.modifyAt (s.point i).config.deadline (fun r => r.timeOut i (s.point i).config.policy)).notify
      (toPort (s.point i).config.port) (.verdictMissed i r.seq r.run r.slot (s.point i).config.policy n)).setPoint i
      { s.point i with timeouts := n }) :=
  ((keeps_modifyAt s _ _).trans (keeps_notify _ _ _)).trans (keeps_setPoint _ i _ (by rfl))

theorem deadline_keeps (i : Fin 4) : Keeps s (s.deadline i) := by
  unfold State.deadline
  dsimp only
  generalize hn : (if (s.point i).timeouts < (s.point i).config.limit then (s.point i).timeouts + 1
    else (s.point i).timeouts) = n
  cases s.recordAt (s.point i).config.deadline with
  | none => exact .refl s
  | some r =>
    by_cases h : r.status[i] = .open_
    · by_cases k : (s.point i).timeouts < (s.point i).config.limit ∧ n = (s.point i).config.limit
        ∧ (s.point i).offline = false
      · simp only [if_pos h, if_pos k]
        exact (missed_keeps s i r _).trans (takeOffline_keeps _ _ _)
      · simp only [if_pos h, if_neg k]
        exact missed_keeps s i r n
    · simp only [h, if_false]
      exact .refl s

theorem pointArrivals_keeps (i : Fin 4) : Keeps s (s.pointArrivals i) := by
  unfold State.pointArrivals
  split
  · exact (inspectionArrival_keeps s i).trans (deadline_keeps _ i)
  · exact .refl s

theorem decideFate_keeps : Keeps s s.decideFate := by
  unfold State.decideFate
  split
  · split
    · unfold State.decideRecord
      dsimp only
      split
      · exact keeps_modifyAt s _ _
      · split
        · exact ((keeps_modifyAt s _ _).trans (keeps_withTl _ _ (fun _ => by rfl))).trans (modifyRun_keeps _ _ _)
        · exact (keeps_modifyAt s _ _).trans (keeps_withTl _ _ (fun _ => by rfl))
    · exact .refl s
  · exact .refl s

theorem inspectFrom_keeps (first : Fin 4) : Keeps s (s.inspectFrom first) := keeps_fold s _ pointArrivals_keeps _

theorem inspectThenCount_keeps (first : Fin 4) : Keeps s (s.inspectThenCount first) :=
  ((inspectFrom_keeps s first).trans (decideFate_keeps _)).trans (countArrival_keeps _)

theorem countThenInspect_keeps (first : Fin 4) : Keeps s (s.countThenInspect first) :=
  ((countArrival_keeps s).trans (inspectFrom_keeps _ first)).trans (decideFate_keeps _)

/-- Naming more causes in the notices made since `s` makes no other notice and loses none. -/
theorem Port.nameCauses_grow {q r : Port} (h : PortGrow q r) (off : Vector Bool 4) (b : Bool) :
    PortGrow q (r.nameCauses q.queue.length off b) := by
  obtain ⟨h1, h2, h3, h4, h5, ⟨l, h6⟩, h7, h8⟩ := h
  refine ⟨h1, h2, h3, h4, h5, ⟨l.map fun n => { n with notice := n.notice.withCauses off b }, ?_⟩, fun k => ?_, h8⟩
  · simp [Port.nameCauses, h6]
  · have := h7 k
    simp only [Port.nameCauses, List.length_append, List.length_take, List.length_map, List.length_drop]
    omega

theorem port_nameCauses (t : State) (causes : BitVec 5) (p : PortId) :
    (s.nameCauses t causes).port p = (t.port p).nameCauses (s.port p).queue.length
      (Vector.ofFn fun i : Fin 4 => t.fh.offline[i] && causes.getLsbD i.val) (t.fh.backlog && causes.getLsbD 4) := by
  simp [State.nameCauses, State.port]

theorem nameCauses_keeps {t : State} (h : Keeps s t) (causes : BitVec 5) : Keeps s (s.nameCauses t causes) :=
  ⟨h.rs, h.tr, h.config, h.pending, fun p => by
    rw [port_nameCauses]
    exact Port.nameCauses_grow (h.ports p) _ _, h.points, h.outputs, h.probes⟩

theorem arrivals_keeps : Keeps s s.arrivals := by
  unfold State.arrivals
  dsimp only
  split
  · refine nameCauses_keeps s ?_ _
    split
    · exact (keeps_withFresh s _).trans (inspectThenCount_keeps _ _)
    · exact (keeps_withFresh s _).trans (countThenInspect_keeps _ _)
  · exact inspectThenCount_keeps s _

theorem pitchAdvance_keeps : Keeps s s.pitchAdvance :=
  ((((((keeps_withPu s { s.pu with pitch := s.pu.pitch + 1 } rfl).trans (advanceFiring_frame _).pass.keeps).trans
    (clearSeen_keeps _)).trans (switchTest_keeps _)).trans (birth_keeps _)).trans (arrivals_keeps _)).trans
    (armAll_frame _).pass.keeps

/-! ### Counts, wraps, gates -/

theorem setLineState_frame (new : LineState) :
    FiringFrame (s.withPu { s.pu with lineState := new }) (s.setLineState new) := by
  unfold State.setLineState
  dsimp only
  split
  · rename_i h
    rw [h]
    exact .refl s
  · have a := firing_notify (s.withPu { s.pu with lineState := new }) (toRole .line)
      (.lineState new s.pu.lineState s.pu.speed)
    have b : FiringFrame ((s.withPu { s.pu with lineState := new }).notify (toRole .line)
        (.lineState new s.pu.lineState s.pu.speed))
        (if s.pu.lineState = .stopped then ((s.withPu { s.pu with lineState := new }).notify (toRole .line)
          (.lineState new s.pu.lineState s.pu.speed)).endTests
        else (s.withPu { s.pu with lineState := new }).notify (toRole .line)
          (.lineState new s.pu.lineState s.pu.speed)) := by
      split
      · exact endTests_frame _
      · exact .refl _
    split
    · exact (a.trans b).trans (forceOffAll_frame _)
    · split
      · exact (a.trans b).trans (forceOffRunOnly_frame _)
      · exact a.trans b

theorem setLineState_keeps (new : LineState) : Keeps s (s.setLineState new) :=
  (keeps_withPu s { s.pu with lineState := new } rfl).trans (setLineState_frame s new).pass.keeps

theorem leaveStopped_keeps (new : LineState) : Keeps s (s.leaveStopped new) := by
  unfold State.leaveStopped
  split
  · exact (keeps_withPu s { s.pu with quiet := 0 } rfl).trans (setLineState_keeps _ _)
  · exact .refl s

theorem setAngle_keeps (a : Nat) : Keeps s (s.setAngle a) := keeps_withPu s _ rfl
theorem setE_keeps (e : Nat) : Keeps s (s.setE e) := keeps_withPu s _ rfl
theorem setBacklash_keeps (b : Bool) : Keeps s (s.setBacklash b) := keeps_withPu s _ rfl

theorem forwardTo_keeps (a : Nat) : Keeps s (s.forwardTo a) := by
  unfold State.forwardTo
  dsimp only
  split
  · exact ((setAngle_keeps s a).trans (passForward_frame _ _ _ _).keeps).trans (endPulses_frame _).pass.keeps
  · exact setAngle_keeps s a

theorem forwardWrap_keeps (a : Nat) : Keeps s (s.forwardWrap a) := by
  unfold State.forwardWrap
  split
  · exact (((setBacklash_keeps s _).trans (setAngle_keeps _ _)).trans (passForward_frame _ _ _ _).keeps).trans
      (endPulses_frame _).pass.keeps
  · have b : Keeps s (if s.pu.angle < 4095 then s.passForward s.pu.angle 4095 (1 + a) else s) := by
      split
      · exact (passForward_frame s _ _ _).keeps
      · exact .refl s
    exact ((((b.trans (setAngle_keeps _ a)).trans (pitchAdvance_keeps _)).trans (expireLate_frame _).pass.keeps).trans
      (passForward_frame _ _ _ _).keeps).trans (endPulses_frame _).pass.keeps

theorem countForward_keeps : Keeps s s.countForward := by
  unfold State.countForward
  split
  · exact (setE_keeps s _).trans (forwardWrap_keeps _ _)
  · exact (setE_keeps s _).trans (forwardTo_keeps _ _)

theorem countReverse_keeps : Keeps s s.countReverse := by
  unfold State.countReverse
  split
  · refine ((setE_keeps s (s.config.cpc - 1)).trans
      (setAngle_keeps _ (angleOf (s.config.cpc - 1) s.config.cpc))).trans ?_
    unfold State.reverseWrap
    split
    · exact raiseFault_keeps _ _ _
    · exact setBacklash_keeps _ _
  · exact (setE_keeps s _).trans (setAngle_keeps _ _)

theorem count_keeps (d : Direction) : Keeps s (s.count d) := by
  cases d
  · exact ((keeps_withPu s { s.pu with dir := .forward, interval := s.pu.interval + 1 } rfl).trans
      (leaveStopped_keeps _ _)).trans (countForward_keeps _)
  · exact ((keeps_withPu s { s.pu with dir := .reverse, interval := s.pu.interval - 1 } rfl).trans
      (leaveStopped_keeps _ _)).trans (countReverse_keeps _)

theorem decodeCount_keeps (a b : Option Bool) : Keeps s (s.decodeCount a b) := by
  unfold State.decodeCount
  split
  · split
    · dsimp only
      unfold State.pulseDirection
      split
      · exact count_keeps s _
      · exact (keeps_withFresh s _).trans (count_keeps _ _)
    · exact .refl s
  · split
    · split
      · exact .refl s
      · split
        · exact count_keeps s _
        · exact .refl s
    · exact .refl s

theorem correctIndex_keeps : Keeps s s.correctIndex := by
  unfold State.correctIndex
  split
  · exact .refl s
  · split
    · exact (setE_keeps s _).trans (setAngle_keeps _ _)
    · exact (setE_keeps s _).trans (forwardWrap_keeps _ _)

theorem indexEdge_keeps : Keeps s s.indexEdge.1 := by
  unfold State.indexEdge
  split
  · exact correctIndex_keeps s
  · exact .refl s

theorem raiseSampleFaults_keeps (slip : Option Int) (q : Bool) : Keeps s (s.raiseSampleFaults slip q) := by
  unfold State.raiseSampleFaults
  split
  · dsimp only
    split
    · exact ((keeps_withFresh s _).trans (raiseFault_keeps _ _ _)).trans (raiseFault_keeps _ _ _)
    · exact ((keeps_withFresh s _).trans (raiseFault_keeps _ _ _)).trans (raiseFault_keeps _ _ _)
  · exact raiseFault_keeps s _ _
  · exact raiseFault_keeps s _ _
  · exact .refl s

theorem acceptLevels_keeps (a b z : Option Bool) : Keeps s (s.acceptLevels a b z) := by
  have h : Keeps s (s.withPu { s.pu with
      encA := s.pu.encA.take a, encB := s.pu.encB.take b, encZ := s.pu.encZ.take z }) := keeps_withPu s _ rfl
  unfold State.acceptLevels
  dsimp only
  split
  · exact h
  · split
    · exact ((h.trans (decodeCount_keeps _ _ _)).trans (indexEdge_keeps _)).trans (raiseSampleFaults_keeps _ _ _)
    · exact (h.trans (decodeCount_keeps _ _ _)).trans (raiseSampleFaults_keeps _ _ _)

theorem encoderRun_keeps (r : SampleRun) : Keeps s (s.encoderRun r) :=
  (keeps_withPu s _ (by rfl)).trans (keeps_fold _ _ (fun t _ => acceptLevels_keeps t _ _ _) _)

theorem addIncrement_keeps : Keeps s s.addIncrement := by
  have a : Keeps s (s.withPu { s.pu with
      dir := .forward, acc := (s.pu.acc + increment s.pu.sd) % accumulatorSize }) := keeps_withPu s _ rfl
  unfold State.addIncrement
  dsimp only
  split
  · exact a.trans (forwardWrap_keeps _ _)
  · exact a.trans (forwardTo_keeps _ _)

theorem addition_keeps : Keeps s s.addition := by
  unfold State.addition
  split
  · exact .refl s
  · split
    · exact (leaveStopped_keeps s _).trans (addIncrement_keeps _)
    · exact addIncrement_keeps s

theorem stimulate_keeps (via : Stimulus) : Keeps s (s.stimulate via) := by
  cases via
  · exact encoderRun_keeps s _
  · exact addition_keeps s

theorem gateEncoder_keeps : Keeps s s.gateEncoder := by
  unfold State.gateEncoder
  dsimp only
  split
  · exact (keeps_withPu s _ (by rfl)).trans (keeps_notify _ _ _)
  · exact keeps_withPu s _ rfl

theorem gateLineState_keeps (q : Bool) : Keeps s (s.gateLineState q) := by
  unfold State.gateLineState
  split
  · exact .refl s
  · exact (keeps_withPu s _ (by rfl)).trans (setLineState_keeps _ _)

theorem gateSource_keeps :
    Keeps s (match s.config.source with | .encoder => s.gateEncoder | .internal => s.gateInternal) := by
  split
  · exact gateEncoder_keeps s
  · exact keeps_withPu s _ rfl

theorem takeSpeed_keeps : Keeps s s.takeSpeed := (takeSpeed_frame s).pass.keeps

theorem gate_keeps : Keeps s s.gate :=
  ((gateSource_keeps s).trans (gateLineState_keeps _ s.quietInterval)).trans (takeSpeed_keeps _)

theorem sampleProbe_config (u : ProbeUnit) (level : Bool) : (s.sampleProbe u level).config = u.config := by
  unfold State.sampleProbe
  split <;> rfl

theorem sampled_config (levels : Vector Bool 6) (i : Fin 6) :
    (Vector.ofFn fun j : Fin 6 => s.sampleProbe s.tl.probes[j] levels[j])[i].config = (s.probe i).config := by
  rw [Fin.getElem_fin, Vector.getElem_ofFn]
  exact sampleProbe_config s _ _

theorem keeps_probes (v : Vector ProbeUnit 6) (h : ∀ i : Fin 6, v[i].config = (s.probe i).config) :
    Keeps s (s.withTl { s.tl with probes := v }) := by
  refine ⟨rfl, rfl, rfl, rfl, fun _ => PortGrow.refl _, fun _ => rfl, fun _ => rfl, fun i => ?_⟩
  exact h i

theorem sampleProbes_keeps (levels : Vector Bool 6) : Keeps s (s.sampleProbes levels) := by
  unfold State.sampleProbes
  exact keeps_probes s _ (sampled_config s levels)

theorem elapse_keeps (n : Nat) : Keeps s (s.elapse n) := (elapse_frame s n).pass.keeps

end Sys2Proof.Machine
end

