-- ==== Sys2Proof/Laws/Advance.lean ====
section
/-! SUPPORT. What the events of a pitch advance leave alone in the ring and in the Position Unit (`Tracked`), what a pitch
advance does to both (R8, R48), and the Position Unit after a wrap and after a count (R5 to R8). -/

namespace Sys2Proof.Machine

/-- The second record is the first in the fields written at birth (R46). -/
def SameBirth (r q : Record) : Prop :=
  q.seq = r.seq ∧ q.run = r.run ∧ q.slot = r.slot ∧ q.birthPitch = r.birthPitch

theorem SameBirth.refl (r : Record) : SameBirth r r := ⟨rfl, rfl, rfl, rfl⟩

theorem SameBirth.trans {r q u : Record} (h : SameBirth r q) (k : SameBirth q u) : SameBirth r u :=
  ⟨k.1.trans h.1, k.2.1.trans h.2.1, k.2.2.1.trans h.2.2.1, k.2.2.2.trans h.2.2.2⟩

theorem MarksOnly.birth {r q : Record} (h : MarksOnly r q) : SameBirth r q := by
  obtain ⟨h1, _⟩ := h
  rw [h1]
  exact ⟨rfl, rfl, rfl, rfl⟩

theorem SameBirth.addDefects (r : Record) (cs : List Code) : SameBirth r (r.addDefects cs) := by
  unfold Record.addDefects
  induction cs generalizing r with
  | nil => exact .refl r
  | cons c cs ih => exact SameBirth.trans (q := r.addDefect c) ⟨rfl, rfl, rfl, rfl⟩ (ih _)

theorem SameBirth.timeOut (r : Record) (i : Fin 4) (p : TimeoutPolicy) : SameBirth r (r.timeOut i p) := by
  cases p <;> exact ⟨rfl, rfl, rfl, rfl⟩

/-- What the events of a pitch advance other than the birth keep: the Position Unit, the counter of seqs, and in the ring the
order of the records and their fields of birth. -/
structure Tracked (s t : State) : Prop where
  pu : t.pu = s.pu
  nextSeq : t.tl.nextSeq = s.tl.nextSeq
  born : t.tl.born = s.tl.born
  ring : Rings SameBirth s.tl.ring t.tl.ring

theorem Tracked.refl (s : State) : Tracked s s := ⟨rfl, rfl, rfl, Rings.refl SameBirth.refl _⟩

theorem Tracked.trans {s t u : State} (h : Tracked s t) (k : Tracked t u) : Tracked s u :=
  ⟨k.pu.trans h.pu, k.nextSeq.trans h.nextSeq, k.born.trans h.born,
    Rings.trans (rel := SameBirth) (fun _ _ _ => SameBirth.trans) h.ring k.ring⟩

theorem PassFrame.tracked {s t : State} (h : PassFrame s t) : Tracked s t where
  pu := h.pu
  nextSeq := by rw [h.tl]
  born := by rw [h.tl]
  ring := h.ring.mono fun _ _ => MarksOnly.birth

theorem FiringFrame.tracked {s t : State} (h : FiringFrame s t) : Tracked s t := h.pass.tracked

variable (s : State)

/-! ### Updates -/

theorem tracked_withTl (v : TL) (h : v.nextSeq = s.tl.nextSeq) (b : v.born = s.tl.born) (r : v.ring = s.tl.ring) :
    Tracked s (s.withTl v) :=
  ⟨rfl, h, b, by
    show Rings SameBirth s.tl.ring v.ring
    rw [r]
    exact Rings.refl SameBirth.refl _⟩

theorem tracked_withCu (v : CU) : Tracked s (s.withCu v) := ⟨rfl, rfl, rfl, Rings.refl SameBirth.refl _⟩
theorem tracked_withBq (v : BQ) : Tracked s (s.withBq v) := ⟨rfl, rfl, rfl, Rings.refl SameBirth.refl _⟩
theorem tracked_withCc (v : CC) : Tracked s (s.withCc v) := ⟨rfl, rfl, rfl, Rings.refl SameBirth.refl _⟩
theorem tracked_withFh (v : FH) : Tracked s (s.withFh v) := ⟨rfl, rfl, rfl, Rings.refl SameBirth.refl _⟩
theorem tracked_withFresh (v : Nat) : Tracked s (s.withFresh v) := ⟨rfl, rfl, rfl, Rings.refl SameBirth.refl _⟩
theorem tracked_setPoint (i : Fin 4) (u : PointUnit) : Tracked s (s.setPoint i u) :=
  ⟨rfl, rfl, rfl, Rings.refl SameBirth.refl _⟩

theorem tracked_notify (dest : PortId → Role → Bool) (n : Notice) : Tracked s (s.notify dest n) := (firing_notify s dest n).tracked

theorem tracked_modifyAt (pos : Nat) (f : Record → Record) (h : ∀ r, SameBirth r (f r)) : Tracked s (s.modifyAt pos f) :=
  ⟨rfl, rfl, rfl, Rings.modify SameBirth.refl f h _ _⟩

theorem tracked_fold {α : Type} (f : State → α → State) (h : ∀ s a, Tracked s (f s a)) (l : List α) :
    Tracked s (l.foldl f s) := fold_frame Tracked.refl (fun _ _ _ => Tracked.trans) f h l s

/-! ### Hold causes -/

theorem refreshHold_tracked : Tracked s s.refreshHold := by
  unfold State.refreshHold
  dsimp only
  split
  · exact .refl s
  · exact (tracked_withFh s _).trans (tracked_notify _ _ _)

theorem setOffline_tracked (i : Fin 4) (v : Bool) : Tracked s (s.setOffline i v) :=
  (tracked_withFh s _).trans (refreshHold_tracked _)

theorem setBacklog_tracked (v : Bool) : Tracked s (s.setBacklog v) := (tracked_withBq s _).trans (tracked_withFh _ _)

theorem testBacklog_tracked : Tracked s s.testBacklog := by
  unfold State.testBacklog
  dsimp only
  split
  · exact ((setBacklog_tracked s _).trans (tracked_notify _ _ _)).trans (refreshHold_tracked _)
  · split
    · exact (setBacklog_tracked s _).trans (refreshHold_tracked _)
    · exact .refl s

theorem raiseFault_tracked (f : TrackFault) (e : Int) : Tracked s (s.raiseFault f e) := by
  have a : Tracked s (s.disturb.withFh (s.fh.setLatch f (s.fh.latch f).raised)) :=
    Tracked.trans (t := s.disturb)
      ⟨rfl, rfl, rfl, Rings.map _ (fun r => (DefectsOnly.addDefect r _).marks.birth) _⟩ (tracked_withFh _ _)
  unfold State.raiseFault
  dsimp only
  split
  · exact a
  · exact (a.trans (tracked_notify _ _ _)).trans (refreshHold_tracked _)

/-! ### Counting -/

theorem modifyRun_tracked (run : Word32) (f : RunRecord → RunRecord) : Tracked s (s.modifyRun run f) :=
  tracked_withTl s _ rfl rfl rfl

theorem completeEnding_tracked : Tracked s s.completeEnding := by
  unfold State.completeEnding
  split
  · exact ((tracked_notify s _ _).trans (tracked_withTl _ _ (by rfl) (by rfl) (by rfl))).trans (tracked_withCc _ _)
  · exact .refl s

theorem countInBatch_tracked (r : Record) : Tracked s (s.countInBatch r) := by
  unfold State.countInBatch
  split
  · exact .refl s
  · dsimp only
    split
    · exact (tracked_withCu s _).trans (tracked_modifyAt _ _ _ (fun _ => by exact ⟨rfl, rfl, rfl, rfl⟩))
    · exact tracked_withCu s _
    · exact tracked_withCu s _
    · exact .refl s
    · exact .refl s

theorem countRecord_tracked (r : Record) : Tracked s (s.countRecord r) := by
  unfold State.countRecord
  dsimp only
  split
  · exact (countInBatch_tracked s r).trans (modifyRun_tracked _ _ _)
  · exact countInBatch_tracked s r

theorem closeWith_tracked (e : BoxEntry) : Tracked s (s.closeWith e) :=
  (((tracked_withBq s _).trans (tracked_notify _ _ _)).trans (testBacklog_tracked _)).trans (tracked_withCu _ _)

theorem endBatch_tracked (reason : CloseReason) : Tracked s (s.endBatch reason) := by
  unfold State.endBatch
  split
  · exact (tracked_modifyAt s _ _ (fun _ => by exact ⟨rfl, rfl, rfl, rfl⟩)).trans (closeWith_tracked _ _)
  · exact tracked_withCu s _

theorem closeTests_tracked (r : Record) : Tracked s (s.closeTests r) := by
  unfold State.closeTests
  split
  · exact ((endBatch_tracked s _).trans (tracked_withCu _ _)).trans (completeEnding_tracked _)
  · split
    · exact (endBatch_tracked s _).trans (tracked_withCu _ _)
    · split
      · unfold State.fullClose
        split
        · exact endBatch_tracked s _
        · exact tracked_withCu s _
      · exact .refl s

theorem countArrival_tracked : Tracked s s.countArrival := by
  unfold State.countArrival
  split
  · exact (countRecord_tracked s _).trans (closeTests_tracked _ _)
  · exact .refl s

/-! ### Changeover -/

theorem endCurrent_tracked : Tracked s s.endCurrent := by
  unfold State.endCurrent
  split
  · split
    · exact ((tracked_modifyAt s _ _ (fun _ => by exact ⟨rfl, rfl, rfl, rfl⟩)).trans
        (tracked_withTl _ _ (by rfl) (by rfl) (by rfl))).trans (tracked_withCc _ _)
    · exact tracked_withCc s _
  · split
    · exact ((tracked_notify s _ _).trans (tracked_withTl _ _ (by rfl) (by rfl) (by rfl))).trans (tracked_withCc _ _)
    · exact tracked_withCc s _

theorem openRun_tracked (j : SlotId) : Tracked s (s.openRun j) :=
  (tracked_withTl s _ (by rfl) (by rfl) (by rfl)).trans (tracked_withCc _ _)

theorem takeSwitch_tracked (slot : Option SlotId) : Tracked s (s.takeSwitch slot) := by
  unfold State.takeSwitch
  cases slot with
  | none => exact ((endCurrent_tracked s).trans (tracked_notify _ _ _)).trans (tracked_withCc _ _)
  | some j =>
    exact (((endCurrent_tracked s).trans (openRun_tracked _ j)).trans (tracked_notify _ _ _)).trans (tracked_withCc _ _)

theorem switchTest_tracked : Tracked s s.switchTest := by
  unfold State.switchTest
  split
  · split
    · split
      · exact takeSwitch_tracked s _
      · unfold State.deferSwitch
        split
        · exact .refl s
        · exact (tracked_notify s _ _).trans (tracked_withCc _ _)
    · exact .refl s
  · exact .refl s

theorem countBirth_tracked (r : Record) : Tracked s (s.countBirth r) := by
  unfold State.countBirth
  split
  · exact tracked_withCc s _
  · exact .refl s

/-! ### Arrivals -/

theorem inspectionArrival_tracked (i : Fin 4) : Tracked s (s.inspectionArrival i) := by
  unfold State.inspectionArrival
  dsimp only
  split
  · split
    · split
      · exact tracked_modifyAt s _ _ fun r => SameBirth.timeOut r _ _
      · exact tracked_notify s _ _
    · exact .refl s
  · exact .refl s

theorem takeOffline_tracked (i : Fin 4) (k : Word32) : Tracked s (s.takeOffline i k) :=
  ((tracked_setPoint s i _).trans (tracked_notify _ _ _)).trans (setOffline_tracked _ _ _)

theorem missed_tracked (i : Fin 4) (r : Record) (n : Nat) :
    Tracked s (((s.modifyAt (s.point i).config.deadline (fun r => r.timeOut i (s.point i).config.policy)).notify
      (toPort (s.point i).config.port) (.verdictMissed i r.seq r.run r.slot (s.point i).config.policy n)).setPoint i
      { s.point i with timeouts := n }) :=
  ((tracked_modifyAt s _ _ fun r => SameBirth.timeOut r _ _).trans (tracked_notify _ _ _)).trans (tracked_setPoint _ i _)

theorem deadline_tracked (i : Fin 4) : Tracked s (s.deadline i) := by
  unfold State.deadline
  dsimp only
  generalize hn : (if (s.point i).timeouts < (s.point i).config.limit then (s.point i).timeouts + 1
    else (s.point i).timeouts) = n
  cases s.recordAt (s.point i).config.deadline with
  | none => exact .refl s
  | some r =>
    by_cases h : r.status[i] = .open_
    · by_cases k : (s.point i).timeouts < (s.point i).config.limit ∧ n = (s.point i).config.limit
        ∧ (s.point i).offline = false
      · simp only [if_pos h, if_pos k]
        exact (missed_tracked s i r _).trans (takeOffline_tracked _ _ _)
      · simp only [if_pos h, if_neg k]
        exact missed_tracked s i r n
    · simp only [h, if_false]
      exact .refl s

theorem pointArrivals_tracked (i : Fin 4) : Tracked s (s.pointArrivals i) := by
  unfold State.pointArrivals
  split
  · exact (inspectionArrival_tracked s i).trans (deadline_tracked _ i)
  · exact .refl s

theorem decideFate_tracked : Tracked s s.decideFate := by
  unfold State.decideFate
  split
  · split
    · unfold State.decideRecord
      dsimp only
      split
      · exact tracked_modifyAt s _ _ (fun _ => by exact ⟨rfl, rfl, rfl, rfl⟩)
      · split
        · exact ((tracked_modifyAt s _ _ (fun _ => by exact ⟨rfl, rfl, rfl, rfl⟩)).trans
            (tracked_withTl _ _ (by rfl) (by rfl) (by rfl))).trans (modifyRun_tracked _ _ _)
        · exact (tracked_modifyAt s _ _ (fun _ => by exact ⟨rfl, rfl, rfl, rfl⟩)).trans
            (tracked_withTl _ _ (by rfl) (by rfl) (by rfl))
    · exact .refl s
  · exact .refl s

theorem inspectFrom_tracked (first : Fin 4) : Tracked s (s.inspectFrom first) := tracked_fold s _ pointArrivals_tracked _

theorem inspectThenCount_tracked (first : Fin 4) : Tracked s (s.inspectThenCount first) :=
  ((inspectFrom_tracked s first).trans (decideFate_tracked _)).trans (countArrival_tracked _)

theorem countThenInspect_tracked (first : Fin 4) : Tracked s (s.countThenInspect first) :=
  ((countArrival_tracked s).trans (inspectFrom_tracked _ first)).trans (decideFate_tracked _)

theorem nameCauses_tracked {t : State} (h : Tracked s t) (causes : BitVec 5) : Tracked s (s.nameCauses t causes) :=
  ⟨h.pu, h.nextSeq, h.born, h.ring⟩

theorem arrivals_tracked : Tracked s s.arrivals := by
  unfold State.arrivals
  dsimp only
  split
  · refine nameCauses_tracked s ?_ _
    split
    · exact (tracked_withFresh s _).trans (inspectThenCount_tracked _ _)
    · exact (tracked_withFresh s _).trans (countThenInspect_tracked _ _)
  · exact inspectThenCount_tracked s _

/-! ### The birth and the pitch advance -/

theorem timeOutDisabled_birth (r : Record) : SameBirth r (s.timeOutDisabled r) := by
  have step : ∀ (l : List (Fin 4)) (q : Record), SameBirth q (l.foldl (fun r i =>
      if r.status[i] = .open_ ∧ (s.point i).config.enable = false then r.timeOut i (s.point i).config.policy else r) q) := by
    intro l
    induction l with
    | nil => exact fun q => .refl q
    | cons i l ih =>
      intro q
      refine SameBirth.trans ?_ (ih _)
      dsimp only
      split
      · exact SameBirth.timeOut q _ _
      · exact .refl q
  exact step _ r

/-- The record that the next birth makes (R47, R110). -/
def State.nextBirth (s : State) : Record := s.timeOutDisabled s.newborn

theorem nextBirth_fields : s.nextBirth.seq = s.tl.nextSeq ∧ s.nextBirth.birthPitch = s.pu.pitch
    ∧ s.nextBirth.run = s.cc.current.map CurrentRun.number ∧ s.nextBirth.slot = s.cc.current.map CurrentRun.slot := by
  have h := SameBirth.trans (SameBirth.addDefects _ _) (timeOutDisabled_birth s s.newborn)
  exact ⟨h.1, h.2.2.2, h.2.1, h.2.2.1⟩

/-- What a pitch advance does to the Position Unit and the ring (R8, R48): the pitch count is one more, a record is born with
the next seq, the others move by one, and the record at P−1 leaves. -/
structure Advanced (s t : State) : Prop where
  pu : t.pu = { s.pu with pitch := s.pu.pitch + 1 }
  nextSeq : t.tl.nextSeq = s.tl.nextSeq + 1
  born : t.tl.born = true
  ring : ∃ r, r.seq = s.tl.nextSeq ∧ r.birthPitch = s.pu.pitch + 1
    ∧ Rings SameBirth (r :: s.tl.ring.take (s.config.lineLength - 1)) t.tl.ring

theorem birth_advances : s.birth.pu = s.pu ∧ s.birth.tl.nextSeq = s.tl.nextSeq + 1 ∧ s.birth.tl.born = true
    ∧ Rings SameBirth (s.nextBirth :: s.tl.ring.take (s.config.lineLength - 1)) s.birth.tl.ring := by
  have h := countBirth_tracked (s.withTl { s.tl with
    ring := s.nextBirth :: s.tl.ring.take (s.config.lineLength - 1)
    nextSeq := s.tl.nextSeq + 1
    born := true
    splice := s.tl.splice - 1 }) s.nextBirth
  exact ⟨h.pu, h.nextSeq, h.born, h.ring⟩

theorem Rings.take {rel : Record → Record → Prop} : ∀ {l m : List Record} (n : Nat), Rings rel l m →
    Rings rel (l.take n) (m.take n)
  | _, _, 0, _ => by simpa using Rings.nil
  | _, _, _ + 1, .nil => by simpa using Rings.nil
  | _, _, n + 1, .cons a b => by simpa using Rings.cons a (Rings.take n b)

theorem clearSeen_tracked : Tracked s s.clearSeen := tracked_withTl s _ rfl rfl rfl

/-- Up to its birth, a pitch advance has counted the pitch and nothing else has moved. -/
theorem beforeBirth_tracked : Tracked s.countPitch s.countPitch.advanceFiring.clearSeen.switchTest :=
  (((advanceFiring_frame _).tracked).trans (clearSeen_tracked _)).trans (switchTest_tracked _)

theorem pitchAdvance_advanced : Advanced s s.pitchAdvance := by
  have a := beforeBirth_tracked s
  generalize hu : s.countPitch.advanceFiring.clearSeen.switchTest = u at a
  have hpu : u.pu = { s.pu with pitch := s.pu.pitch + 1 } := a.pu
  have hcfg : u.config = s.config := by
    show u.pu.config = s.pu.config
    rw [hpu]
  have b := birth_advances u
  have c : Tracked u.birth s.pitchAdvance := by
    unfold State.pitchAdvance
    rw [hu]
    exact (arrivals_tracked _).trans (armAll_frame _).tracked
  have f := nextBirth_fields u
  refine ⟨c.pu.trans (b.1.trans hpu), ?_, c.born.trans b.2.2.1, u.nextBirth, f.1.trans a.nextSeq, ?_, ?_⟩
  · rw [c.nextSeq, b.2.1, a.nextSeq]
    rfl
  · rw [f.2.1, hpu]
  · refine Rings.trans (rel := SameBirth) (fun _ _ _ => SameBirth.trans) ?_ c.ring
    refine Rings.trans (rel := SameBirth) (fun _ _ _ => SameBirth.trans) ?_ b.2.2.2
    rw [hcfg]
    exact .cons (.refl _) (Rings.take _ a.ring)

/-! ### Wraps and counts (R5 to R8) -/

theorem passForward_pu (lo hi ahead : Nat) : (s.passForward lo hi ahead).pu = s.pu := (passForward_frame s lo hi ahead).pu

theorem endPulses_pu : s.endPulses.pu = s.pu := (endPulses_frame s).pu

theorem forwardTo_pu (a : Nat) : (s.forwardTo a).pu = { s.pu with angle := a } := by
  unfold State.forwardTo
  dsimp only
  split
  · rw [endPulses_pu, passForward_pu]
    rfl
  · rfl

/-- R6: a forward wrap. -/
theorem forwardWrap_pu (a : Nat) : (s.forwardWrap a).pu =
    if s.pu.backlash then { s.pu with backlash := false, angle := a }
    else { s.pu with angle := a, pitch := s.pu.pitch + 1 } := by
  unfold State.forwardWrap
  dsimp only
  split
  · rw [endPulses_pu, passForward_pu]
    rfl
  · have b : (if s.pu.angle < 4095 then s.passForward s.pu.angle 4095 (1 + a) else s).pu = s.pu := by
      split
      · exact passForward_pu s _ _ _
      · rfl
    generalize (if s.pu.angle < 4095 then s.passForward s.pu.angle 4095 (1 + a) else s) = u at b
    rw [endPulses_pu, passForward_pu, (expireLate_frame _).pu, (pitchAdvance_advanced _).pu]
    show { (u.setAngle a).pu with pitch := (u.setAngle a).pu.pitch + 1 } = _
    show { u.pu with angle := a, pitch := u.pu.pitch + 1 } = _
    rw [b]

/-- A wrap with b = 0 is a pitch advance (R6). -/
theorem forwardWrap_advanced (a : Nat) (h : s.pu.backlash = false) :
    ∃ u, Tracked s u ∧ Advanced (u.setAngle a) (u.setAngle a).pitchAdvance
      ∧ Tracked (u.setAngle a).pitchAdvance (s.forwardWrap a) := by
  unfold State.forwardWrap
  rw [h]
  dsimp only
  refine ⟨if s.pu.angle < 4095 then s.passForward s.pu.angle 4095 (1 + a) else s, ?_, pitchAdvance_advanced _, ?_⟩
  · split
    · exact (passForward_frame s _ _ _).tracked
    · exact .refl s
  · exact (((expireLate_frame _).tracked).trans (passForward_frame _ _ _ _).tracked).trans (endPulses_frame _).tracked

theorem setLineState_pu (new : LineState) : (s.setLineState new).pu = { s.pu with lineState := new } :=
  (setLineState_frame s new).pu

/-- R17: the Position Unit after leaving STOPPED. -/
theorem leaveStopped_pu (new : LineState) : (s.leaveStopped new).pu =
    if s.pu.lineState = .stopped then { s.pu with quiet := 0, lineState := new } else s.pu := by
  unfold State.leaveStopped
  split
  · rw [setLineState_pu]
    rfl
  · rfl

end Sys2Proof.Machine
end

