-- ==== Sys2Proof/Laws/PerInstr.lean ====
section
/-! SUPPORT. The statements about every command as syntax, one lemma for each constructor of `Instr`. -/

namespace Sys2Proof.Laws.PayloadLength

open Sys2Proof Sys2Proof.Machine

/-- The payload of a well-formed command fits the sixty bytes of a command frame (R179, check 1). -/
def Statement (c : Instr) : Prop := c.wellFormed = true → c.payload.length ≤ payloadLimit

theorem powerOn (pins : ResetPins) : Statement (.powerOn pins) := fun _ => Nat.le_of_ble_eq_true rfl

theorem resetPin (pins : ResetPins) : Statement (.resetPin pins) := fun _ => Nat.le_of_ble_eq_true rfl

theorem encoderCount (run : SampleRun) : Statement (.encoderCount run) := fun _ => Nat.le_of_ble_eq_true rfl

theorem quadratureError (run : SampleRun) : Statement (.quadratureError run) := fun _ => Nat.le_of_ble_eq_true rfl

theorem indexEdge (run : SampleRun) : Statement (.indexEdge run) := fun _ => Nat.le_of_ble_eq_true rfl

theorem internalAddition : Statement (.internalAddition) := fun _ => Nat.le_of_ble_eq_true rfl

theorem speedGate : Statement (.speedGate) := fun _ => Nat.le_of_ble_eq_true rfl

theorem quietGateStop : Statement (.quietGateStop) := fun _ => Nat.le_of_ble_eq_true rfl

theorem probeSample (levels : Vector Bool 6) : Statement (.probeSample levels) := fun _ => Nat.le_of_ble_eq_true rfl

theorem switch (via : Stimulus) : Statement (.switch via) := fun _ => Nat.le_of_ble_eq_true rfl

theorem forcedClose (via : Stimulus) : Statement (.forcedClose via) := fun _ => Nat.le_of_ble_eq_true rfl

theorem testPulseEnd (output : OutId) : Statement (.testPulseEnd output) := fun _ => Nat.le_of_ble_eq_true rfl

theorem frameReceived (port : PortId) (bytes : List Byte) :
    Statement (.frameReceived port bytes) := fun _ => Nat.le_of_ble_eq_true rfl

theorem overlapTransfer (port : PortId) (bytes : List Byte) :
    Statement (.overlapTransfer port bytes) := fun _ => Nat.le_of_ble_eq_true rfl

theorem responseMade (made : ResponsePort) : Statement (.responseMade made) := fun _ => Nat.le_of_ble_eq_true rfl

theorem responseRead (port : PortId) (bytes : List Byte) :
    Statement (.responseRead port bytes) := fun _ => Nat.le_of_ble_eq_true rfl

theorem readStatus (port : PortId) : Statement (.readStatus port) := fun _ => Nat.le_of_ble_eq_true rfl

theorem readConfig (port : PortId) (part : Nat) : Statement (.readConfig port part) := fun _ => Nat.le_of_ble_eq_true rfl

theorem readRecord (port : PortId) (key_by : Nat) (key : Nat) :
    Statement (.readRecord port key_by key) := fun _ => Nat.le_of_ble_eq_true rfl

theorem readSegments (port : PortId) (first : Nat) (count : Nat) :
    Statement (.readSegments port first count) := fun _ => Nat.le_of_ble_eq_true rfl

theorem readProfile (port : PortId) (profile : Nat) :
    Statement (.readProfile port profile) := fun _ => Nat.le_of_ble_eq_true rfl

theorem readRecipe (port : PortId) (slot : Nat) : Statement (.readRecipe port slot) := fun _ => Nat.le_of_ble_eq_true rfl

theorem readBatch (port : PortId) : Statement (.readBatch port) := fun _ => Nat.le_of_ble_eq_true rfl

theorem boxPeek (port : PortId) : Statement (.boxPeek port) := fun _ => Nat.le_of_ble_eq_true rfl

theorem noticeTake (port : PortId) : Statement (.noticeTake port) := fun _ => Nat.le_of_ble_eq_true rfl

theorem lineConfig (port : PortId) (fields : LineFields) :
    Statement (.lineConfig port fields) := fun _ => Nat.le_of_ble_eq_true rfl

theorem source (port : PortId) (source : Nat) : Statement (.source port source) := fun _ => Nat.le_of_ble_eq_true rfl

theorem drive (port : PortId) (target : Nat) (ramp : Nat) :
    Statement (.drive port target ramp) := fun _ => Nat.le_of_ble_eq_true rfl

theorem probeConfig (port : PortId) (fields : ProbeFields) :
    Statement (.probeConfig port fields) := fun _ => Nat.le_of_ble_eq_true rfl

theorem outputConfig (port : PortId) (fields : OutputFields) :
    Statement (.outputConfig port fields) := fun _ => Nat.le_of_ble_eq_true rfl

theorem trimConfig (port : PortId) (fields : TrimFields) :
    Statement (.trimConfig port fields) := fun _ => Nat.le_of_ble_eq_true rfl

theorem pointConfig (port : PortId) (fields : PointFields) :
    Statement (.pointConfig port fields) := fun _ => Nat.le_of_ble_eq_true rfl

theorem cancelJob (port : PortId) : Statement (.cancelJob port) := fun _ => Nat.le_of_ble_eq_true rfl

theorem splice (port : PortId) (n : Nat) : Statement (.splice port n) := fun _ => Nat.le_of_ble_eq_true rfl

theorem trackClear (port : PortId) : Statement (.trackClear port) := fun _ => Nat.le_of_ble_eq_true rfl

theorem faultClear (port : PortId) : Statement (.faultClear port) := fun _ => Nat.le_of_ble_eq_true rfl

theorem forceReject (port : PortId) (seq : Nat) : Statement (.forceReject port seq) := fun _ => Nat.le_of_ble_eq_true rfl

theorem pullSample (port : PortId) (n : Nat) : Statement (.pullSample port n) := fun _ => Nat.le_of_ble_eq_true rfl

theorem pointResume (port : PortId) (point : Nat) : Statement (.pointResume port point) := fun _ => Nat.le_of_ble_eq_true rfl

theorem setTrim (port : PortId) (group : Nat) (value : Nat) :
    Statement (.setTrim port group value) := fun _ => Nat.le_of_ble_eq_true rfl

theorem testPulse (port : PortId) (output : Nat) (duration : Nat) :
    Statement (.testPulse port output duration) := fun _ => Nat.le_of_ble_eq_true rfl

theorem boxTake (port : PortId) : Statement (.boxTake port) := fun _ => Nat.le_of_ble_eq_true rfl

theorem closeBatch (port : PortId) : Statement (.closeBatch port) := fun _ => Nat.le_of_ble_eq_true rfl

theorem acceptedLevelChange (run : SampleRun) : Statement (.acceptedLevelChange run) := fun _ => Nat.le_of_ble_eq_true rfl

theorem segmentBytes (l : List (Nat × Nat)) : (l.flatMap (fun g => byte2 g.1 ++ byte2 g.2)).length = 4 * l.length := by
  induction l with
  | nil => rfl
  | cons g l ih =>
    rw [List.flatMap_cons, List.length_append, ih, List.length_cons]
    show 4 + 4 * l.length = 4 * (l.length + 1)
    omega

theorem singleBytes (l : List Nat) : (l.flatMap byte1).length = l.length := by
  induction l with
  | nil => rfl
  | cons g l ih =>
    rw [List.flatMap_cons, List.length_append, ih, List.length_cons]
    show 1 + l.length = l.length + 1
    omega

theorem putSegments (port : PortId) (first count : Nat) (segments : List (Nat × Nat)) :
    Statement (.putSegments port first count segments) := by
  intro h
  simp only [Instr.wellFormed, Bool.and_eq_true, decide_eq_true_eq] at h
  simp only [Instr.payload, List.length_append, segmentBytes, byte1, List.length_cons, List.length_nil, payloadLimit]
  omega

theorem putProfile (port : PortId) (profile first count : Nat) (tag : Option (Vector Byte 8)) :
    Statement (.putProfile port profile first count tag) := by
  intro _
  cases tag <;> simp [Instr.payload, byte1, payloadLimit]

theorem putRecipe (port : PortId) (slot content : Nat) (recipe : Option RecipeFields) :
    Statement (.putRecipe port slot content recipe) := by
  intro _
  cases recipe with
  | none => exact Nat.le_of_ble_eq_true rfl
  | some f =>
    show (byte1 slot ++ byte1 content ++ f.payload).length ≤ payloadLimit
    simp only [RecipeFields.payload, List.length_append, singleBytes, Vector.length_toList, byte1, byte2, byte4,
      List.length_cons, List.length_nil, payloadLimit]
    omega

theorem nextJob (port : PortId) (slot mode : Nat) (n : Option Nat) : Statement (.nextJob port slot mode n) := by
  intro _
  cases n <;> simp [Instr.payload, byte1, byte2, payloadLimit]

theorem verdict (port : PortId) (point seq result m : Nat) (codes : List Nat) :
    Statement (.verdict port point seq result m codes) := by
  intro h
  simp only [Instr.wellFormed, Bool.and_eq_true, decide_eq_true_eq] at h
  simp only [Instr.payload, List.length_append, singleBytes, byte1, byte4, List.length_cons, List.length_nil, payloadLimit]
  omega

end Sys2Proof.Laws.PayloadLength
end

