-- ==== Sys2Proof/Laws/Store.lean ====
section
/-! SUPPORT. The tests of the Recipe Store say what the manual means by live (R30, R31). -/

namespace Sys2Proof.Machine

variable (s : State)

theorem mem_allOutputs (o : OutId) : o ∈ allOutputs := by
  revert o
  decide

theorem mem_allSlots (j : SlotId) : j ∈ allSlots := by
  revert j
  decide

theorem mem_allProfiles (p : ProfileId) : p ∈ allProfiles := List.mem_finRange p

theorem isCurrent_iff (j : SlotId) : s.isCurrent j = true ↔ ∃ c, s.cc.current = some c ∧ c.slot = j := by
  simp [State.isCurrent]

theorem isArmed_iff (j : SlotId) : s.isArmed j = true ↔ ∃ a, s.cc.armed = some a ∧ a.slot = some j := by
  simp [State.isArmed, Option.bind_eq_some_iff]

theorem recordsWith_pos (j : SlotId) : 0 < s.recordsWith j ↔ ∃ r ∈ s.tl.ring, r.slot = some j := by
  simp [State.recordsWith, List.length_pos_iff_exists_mem]

/-- R30. -/
theorem slotLive_iff (j : SlotId) : s.slotLive j = true ↔ s.liveSlot j := by
  simp only [State.slotLive, Bool.or_eq_true, decide_eq_true_eq, isCurrent_iff, isArmed_iff, recordsWith_pos,
    State.liveSlot, or_assoc]

theorem names_iff (r : Recipe) (p : ProfileId) : r.names p = true ↔ ∃ o : OutId, r.outputMap[o] = some p := by
  simp [Recipe.names, mem_allOutputs]

/-- R31, for profiles. -/
theorem profileLive_iff (p : ProfileId) : s.profileLive p = true ↔ s.liveProfile p := by
  simp only [State.profileLive, List.any_eq_true, State.liveProfile]
  constructor
  · rintro ⟨j, -, h⟩
    split at h
    · rename_i r hr
      obtain ⟨hl, hn⟩ := Bool.and_eq_true_iff.mp h
      obtain ⟨o, ho⟩ := (names_iff r p).mp hn
      exact ⟨j, r, o, (slotLive_iff s j).mp hl, hr, ho⟩
    · cases h
  · rintro ⟨j, r, o, hl, hr, ho⟩
    refine ⟨j, mem_allSlots j, ?_⟩
    rw [hr]
    exact Bool.and_eq_true_iff.mpr ⟨(slotLive_iff s j).mpr hl, (names_iff r p).mpr ⟨o, ho⟩⟩

theorem covers_iff (p : Profile) (i : Nat) : p.covers i = true ↔ p.first ≤ i ∧ i < p.first + p.count := by
  simp [Profile.covers]

/-- R31, for segments. -/
theorem segmentLive_iff (i : Nat) : s.segmentLive i = true ↔ s.liveSegment i := by
  simp only [State.segmentLive, List.any_eq_true, Bool.and_eq_true, State.liveSegment, covers_iff, profileLive_iff]
  constructor
  · rintro ⟨p, -, ⟨h, k⟩, l⟩
    exact ⟨p, l, h, k⟩
  · rintro ⟨p, l, h, k⟩
    exact ⟨p, mem_allProfiles p, ⟨h, k⟩, l⟩

end Sys2Proof.Machine
end

