-- ==== Sys2Proof/Tests/Slice0.lean ====
section
/-! SUPPORT. Tests of the model: ill-formed terms that the check refuses, examples that the manual works through, and for every
statement of the obligations states and operands that meet its hypotheses, at the values where its clauses meet. -/

namespace Sys2Proof.Tests

-- One thread: each test's evaluation waits for the kernel's check of all before it.
set_option Elab.async false

open Sys2Proof Sys2Proof.Machine

/-! ### Ill-formed commands are refused, one for each check -/

def goodLine : LineFields := ⟨16, 12, 14, 4096, 2, 3, 0, 8, 10, 600, 30, 0, 12⟩
def goodProbe : ProbeFields := ⟨0, 1, 0, 100, 200, 1, 0, 1, 15⟩
def goodOutput : OutputFields := ⟨0, 1, 1, 5, 1, 1000, 900, 255, 0, 255⟩
def goodTrim : TrimFields := ⟨0, 0, 32, 255, 2, 2, 1, 10, 8, 40, 90⟩
def goodPoint : PointFields := ⟨0, 1, 3, 6, 1, 0, 255, 8⟩
def goodRecipe : RecipeFields := ⟨7, Vector.replicate 16 255, 0, 0, 15, 10, 0, 0⟩

theorem test_wellFormed_accepts_good_fields :
    (goodLine.wellFormed && goodProbe.wellFormed && goodOutput.wellFormed && goodTrim.wellFormed && goodPoint.wellFormed
      && goodRecipe.wellFormed) = true := by decide +kernel

theorem test_wellFormed_refuses_line_fields :
    [{ goodLine with lineLength := 256 }, { goodLine with gate := 256 }, { goodLine with count := 256 },
     { goodLine with cpc := 65536 }, { goodLine with countMode := 256 }, { goodLine with filter := 256 },
     { goodLine with indexEnable := 256 }, { goodLine with indexTolerance := 256 }, { goodLine with stopTime := 256 },
     { goodLine with runThreshold := 65536 }, { goodLine with runHysteresis := 256 }, { goodLine with source := 256 },
     { goodLine with backlog := 256 }].any LineFields.wellFormed = false := by decide +kernel

theorem test_wellFormed_refuses_probe_fields :
    [{ goodProbe with probe := 256 }, { goodProbe with enable := 256 }, { goodProbe with position := 256 },
     { goodProbe with onAngle := 65536 }, { goodProbe with offAngle := 65536 }, { goodProbe with badLevel := 256 },
     { goodProbe with stableTime := 256 }, { goodProbe with kind := 256 }, { goodProbe with code := 256 }].any
      ProbeFields.wellFormed = false := by decide +kernel

theorem test_wellFormed_refuses_output_fields :
    [{ goodOutput with output := 256 }, { goodOutput with enable := 256 }, { goodOutput with polarity := 256 },
     { goodOutput with station := 256 }, { goodOutput with gating := 256 }, { goodOutput with lon := 65536 },
     { goodOutput with loff := 65536 }, { goodOutput with trimGroup := 256 }, { goodOutput with runOnly := 256 },
     { goodOutput with omission := 256 }].any OutputFields.wellFormed = false := by decide +kernel

theorem test_wellFormed_refuses_trim_fields :
    [{ goodTrim with group := 256 }, { goodTrim with mode := 256 }, { goodTrim with tmin := 256 },
     { goodTrim with tmax := 256 }, { goodTrim with upStep := 256 }, { goodTrim with downStep := 256 },
     { goodTrim with hysteresis := 256 }, { goodTrim with tick := 256 }, { goodTrim with noise := 256 },
     { goodTrim with low := 256 }, { goodTrim with high := 256 }].any TrimFields.wellFormed = false := by decide +kernel

theorem test_wellFormed_refuses_point_fields :
    [{ goodPoint with point := 256 }, { goodPoint with enable := 256 }, { goodPoint with inspection := 256 },
     { goodPoint with deadline := 256 }, { goodPoint with boundPort := 256 }, { goodPoint with policy := 256 },
     { goodPoint with trimGroup := 256 }, { goodPoint with limit := 256 }].any PointFields.wellFormed = false := by
  decide +kernel

theorem test_wellFormed_refuses_recipe_fields :
    [{ goodRecipe with jobCode := 4294967296 }, { goodRecipe with outputMap := Vector.replicate 16 256 },
     { goodRecipe with rejectMask := 65536 }, { goodRecipe with skipMask := 65536 }, { goodRecipe with points := 256 },
     { goodRecipe with batchSize := 65536 }, { goodRecipe with minSpeed := 65536 },
     { goodRecipe with autoSample := 65536 }].any RecipeFields.wellFormed = false := by decide +kernel

theorem test_wellFormed_refuses_records :
    [Instr.lineConfig 0 { goodLine with cpc := 65536 }, .probeConfig 0 { goodProbe with code := 256 },
     .outputConfig 0 { goodOutput with lon := 65536 }, .trimConfig 0 { goodTrim with high := 256 },
     .pointConfig 0 { goodPoint with limit := 256 }, .putRecipe 0 0 1 (some { goodRecipe with points := 256 }),
     .putRecipe 0 256 0 none, .putRecipe 0 0 256 none].any Instr.wellFormed = false := by decide +kernel

theorem test_wellFormed_refuses_sample_runs :
    [Instr.encoderCount ⟨true, false, false, 0⟩, .quadratureError ⟨true, false, false, 0⟩,
     .indexEdge ⟨true, false, false, 0⟩, .acceptedLevelChange ⟨true, false, false, 0⟩,
     .switch (.encoder ⟨true, false, false, 0⟩), .forcedClose (.encoder ⟨true, false, false, 0⟩)].any
      Instr.wellFormed = false := by decide +kernel

theorem test_wellFormed_refuses_single_fields :
    [Instr.readConfig 0 256, .readRecord 0 256 0, .readRecord 0 0 4294967296, .readSegments 0 256 1, .readSegments 0 0 256,
     .readProfile 0 256, .readRecipe 0 256, .source 0 256, .drive 0 65536 1, .drive 0 0 256, .nextJob 0 256 0 none,
     .nextJob 0 0 256 none, .nextJob 0 0 1 (some 65536), .splice 0 256, .forceReject 0 4294967296, .pullSample 0 256,
     .pointResume 0 256, .setTrim 0 256 0, .setTrim 0 0 256, .testPulse 0 256 1, .testPulse 0 0 65536].any
      Instr.wellFormed = false := by decide +kernel

theorem test_wellFormed_refuses_lists :
    [Instr.putSegments 0 256 1 [(0, 1)], .putSegments 0 0 2 [(0, 1)], .putSegments 0 0 15 (List.replicate 15 (0, 1)),
     .putSegments 0 0 1 [(65536, 1)], .putSegments 0 0 1 [(0, 65536)], .putProfile 0 256 0 1 none,
     .putProfile 0 0 256 1 none, .putProfile 0 0 0 256 none, .verdict 1 256 0 0 255 [], .verdict 1 0 4294967296 0 255 [],
     .verdict 1 0 0 256 255 [], .verdict 1 0 0 0 256 [], .verdict 1 0 0 1 255 [256],
     .verdict 1 0 0 1 255 (List.replicate 53 1)].any Instr.wellFormed = false := by decide +kernel

/-! ### States to test on -/

/-- A port that hears the command: not ignoring, IDLE, of an open role, with a payload of an allowed length. -/
def heard (s : State) (p : PortId) (c : Instr) : Bool :=
  !(s.port p).ignoring && (s.port p).transfer == .idle && decide (c.payload.length ≤ payloadLimit) && lengthFits c
    && match c.command? with
      | some (q, k) => q == p && openTo k (s.port p).role
      | none => false

theorem reaches_of_heard {s : State} {p : PortId} {c : Instr} (h : heard s p c = true) : s.reaches p c (s.clocked p c) := by
  simp only [heard, Bool.and_eq_true, Bool.not_eq_true', beq_iff_eq, decide_eq_true_eq] at h
  obtain ⟨⟨⟨⟨h1, h2⟩, h3⟩, h4⟩, h5⟩ := h
  split at h5
  · rename_i q k hc
    obtain ⟨hq, ho⟩ := Bool.and_eq_true_iff.mp h5
    obtain rfl := eq_of_beq hq
    exact ⟨h1, k, hc, .inr ⟨h2, ho, h3, h4, rfl⟩⟩
  · cases h5

/-- A state, a port, a command and a condition on the state in which the owner takes it. -/
structure Case where
  start : State
  port : PortId
  command : Instr
  holds : State → Bool

def Case.ok (x : Case) : Bool := heard x.start x.port x.command && x.holds (x.start.clocked x.port x.command)

/-- Every case of the list reaches its owner in a state that meets the case's condition. -/
def Met (l : List Case) : Prop := ∀ x ∈ l, ∃ t, x.start.reaches x.port x.command t ∧ x.holds t = true

theorem met_of {l : List Case} (h : l.all Case.ok = true) : Met l := by
  intro x hx
  have := List.all_eq_true.mp h x hx
  obtain ⟨h1, h2⟩ := Bool.and_eq_true_iff.mp this
  exact ⟨_, reaches_of_heard h1, h2⟩

/-- The reset state: P0 LINE, P1 INSPECT, P2 PACK, P3 SERVICE, the line STOPPED, nothing stored. -/
def base : State := .reset

/-- A recipe that names profile 0 for O0 and requires every point. -/
def someRecipe : Recipe :=
  ⟨7, (Vector.replicate 16 none).set 0 (some 0), 0x0010#16, 0, Vector.replicate 4 true, 10, 60, 2⟩

/-- Two segments, profile 0 over both, a recipe in J0. -/
def stocked : State :=
  base.withRs ⟨((Vector.replicate 256 ⟨0, 1⟩).set 0 ⟨100, 50⟩).set 1 ⟨200, 60⟩, (Vector.replicate 64 ⟨0, 0, none⟩).set 0 ⟨0, 2, none⟩,
    (Vector.replicate 16 none).set 0 (some someRecipe)⟩

/-- A record of run 1 with a seq, one status at every point, and a fate. -/
def aRecord (seq : Nat) (status : PointStatus) (fate : Fate) : Record :=
  ⟨BitVec.ofNat 32 seq, some 1, some 0, 5, false, 0, Vector.replicate 4 status, none, fate, false, none, false⟩

def aRun : RunRecord := ⟨1, 0, 7, 0, none, 0, 0, 0, 0, 0, 0⟩

/-- A line of sixteen records of run 1, the newest with seq 15, all OPEN; those from position 11 on are GOOD. -/
def full : State :=
  (stocked.withTl { stocked.tl with
    ring := (List.range 16).map fun i => aRecord (15 - i) .open_ (if 11 ≤ i then .good else .undecided)
    nextSeq := 16
    born := true
    current := some aRun
    nextRun := 2 }).withCc { stocked.cc with current := some ⟨1, 0⟩ }

def withLine (s : State) (l : LineState) : State := s.withPu { s.pu with lineState := l }

/-- The state with the source INTERNAL, at an accumulator and a drive speed. -/
def driven (s : State) (acc sd : Nat) : State :=
  s.withPu { s.pu with acc := acc, sd := sd, angle := acc / 65536, config := { s.config with source := .internal } }

/-- The state with the encoder inputs settled at low levels, at an edge count and b. -/
def settledAt (s : State) (e : Nat) (b : Bool) : State :=
  s.withPu { s.pu with
    encA := ⟨some false, none⟩, encB := ⟨some false, none⟩, encZ := ⟨some false, none⟩, e := e, angle := e, backlash := b }

/-- The first forward count of X4: ENC_A rises, held for as long as FILTER 3 asks. -/
def riseA : SampleRun := ⟨true, false, false, 33⟩

/-- A reverse count of X4: ENC_B rises with ENC_A low. -/
def riseB : SampleRun := ⟨false, true, false, 33⟩

def anEntry (n : Nat) : BoxEntry := ⟨BitVec.ofNat 32 n, ⟨1, 0, 7, 0, 9⟩, 10, 1, 0, 0, .full, false⟩

/-- The state with `n` entries in the Box Queue, numbered from 1. -/
def boxed (s : State) (n : Nat) : State :=
  (s.withBq { s.bq with entries := (List.range n).map fun i => anEntry (i + 1) }).withCu
    ⟨⟨BitVec.ofNat 32 (n + 1), none, 0, 0, 0, 0, false⟩, BitVec.ofNat 32 (n + 1), false⟩

/-! ### What the manual works through -/

/-- 11 section 11.2.1: BOX TAKE is 0x50, 0x00, 0xB0. -/
theorem test_boxTake_frame : (Instr.boxTake 2).frame = [0x50, 0x00, 0xB0] := by decide +kernel

/-- The state after a command; every command answers one. -/
def after (c : Instr) (s : State) : State :=
  match exec c s with
  | .next t => t
  | _ => s

def answerOf (s : State) (p : PortId) : List Byte :=
  match (s.port p).transfer with
  | .answer l => l
  | _ => []

/-- 11 section 11.2.1: with 11 entries, the take and the response of 44 bytes with ATN set and the occupancy 10. -/
theorem test_boxTake_response :
    (let u := after (.responseMade ⟨2, false⟩) (after (.boxTake 2) (boxed base 11))
     let l := answerOf u 2
     l.length == 44 && l.take 3 == [0, 4, 40] && byteAt l 42 == 10 && sumBytes l == 0 && decide (u.bq.entries.length = 10))
      = true := by decide +kernel

/-- R12: the table of increments. -/
theorem test_increments :
    [1, 50, 300, 600, 1200, 1500, 2400].map increment = [45, 2237, 13422, 26844, 53687, 67109, 107374] := by decide +kernel

/-- R14: gate counts of 800, 805, 795 and 800 with CPC 4,000 give 1,200 epm. -/
theorem test_speed_example : unsaturatedSpeed (800 + 805 + 795 + 800) 4000 = 1200 := by decide +kernel

/-- R2, R3: the decoder gives the rows of the tables and no other count. -/
theorem test_x1_rows : ∀ a b a' b' : Bool, a = a' ∨ b = b' →
    (decodeQuadrature .x1 a b a' b' = some .forward ↔ a = false ∧ a' = true ∧ b = false)
      ∧ (decodeQuadrature .x1 a b a' b' = some .reverse ↔ a = true ∧ a' = false ∧ b = false) := by decide +kernel

theorem test_x4_rows : ∀ a b a' b' : Bool,
    (decodeQuadrature .x4 a b a' b' = some .forward ↔ (a, b, a', b') ∈ [(false, false, true, false),
      (true, false, true, true), (true, true, false, true), (false, true, false, false)])
      ∧ (decodeQuadrature .x4 a b a' b' = some .reverse ↔ (a, b, a', b') ∈ [(true, false, false, false),
        (true, true, true, false), (false, true, true, true), (false, false, false, true)]) := by decide +kernel

/-! ### Witnesses: ports -/

/-- The port 0 with a transfer state. -/
def inTransfer (x : Transfer) : State := base.setPort 0 { base.port 0 with transfer := x }

def longVerdict : Instr := .verdict 1 3 4294967295 1 127 (List.replicate 52 15)

/-- FrameIsCheckedInOrder: each check alone fails, and a frame that passes. -/
theorem test_witness_frames :
    ((base.port 0).transfer = .idle ∧ (base.port 0).ignoring = false)
      ∧ frameBad [1, 255] ∧ frameBad [1, 61, 194] ∧ frameBad [1, 1, 254] ∧ frameBad [1, 0, 254]
      ∧ (¬frameBad [0x0A, 0, 0xF6] ∧ ∀ k : Command, k.code ≠ byteAt [0x0A, 0, 0xF6] 0)
      ∧ (¬frameBad [0x50, 0, 0xB0] ∧ Command.boxTake.code = byteAt [0x50, 0, 0xB0] 0
        ∧ openTo .boxTake (base.port 0).role = false)
      ∧ (¬frameBad [1, 1, 0, 254] ∧ openTo .readStatus (base.port 0).role = true
        ∧ ¬Command.readStatus.lengthAllowed (field [1, 1, 0, 254] 2 (byteAt [1, 1, 0, 254] 1)))
      ∧ (¬frameBad [1, 0, 255] ∧ Command.readStatus.lengthAllowed (field [1, 0, 255] 2 (byteAt [1, 0, 255] 1))) := by
  refine ⟨?_, ?_, ?_, ?_, ?_, ⟨?_, fun k => ?_⟩, ⟨?_, ?_⟩, ⟨?_, ?_⟩, ?_, ?_⟩
  case refine_7 => cases k <;> decide
  all_goals try simp only [frameBad, Command.lengthAllowed]
  all_goals decide +kernel

/-- CommandFramesComeBack: the longest payload of all, on an INSPECT port. -/
theorem test_witness_comeBack :
    longVerdict.wellFormed = true ∧ longVerdict.payload.length = 60 ∧ longVerdict.command? = some (1, .verdict)
      ∧ (base.port 1).transfer = .idle ∧ (base.port 1).ignoring = false ∧ openTo .verdict (base.port 1).role = true := by
  decide +kernel

/-- ForeignRolesAreRefused: SPLICE from the INSPECT port. -/
theorem test_witness_foreign_role :
    (Instr.splice 1 64).command? = some (1, .splice) ∧ (Instr.splice 1 64).payload.length ≤ 60
      ∧ (base.port 1).transfer = .idle ∧ (base.port 1).ignoring = false ∧ openTo .splice (base.port 1).role = false := by
  decide +kernel

/-- TransferWhileWorkingSetsOverlap, ResponseCarriesAnswerAndFlags, ResponseIsClockedOut: ports in the states they name, and a
response clocked to its last byte and one byte less. -/
theorem test_witness_transfer_states :
    (((inTransfer (.inFlight (.readStatus 0))).port 0).ignoring = false
        ∧ ((inTransfer (.inFlight (.readStatus 0))).port 0).transfer = .inFlight (.readStatus 0))
      ∧ ((inTransfer (.answered .done)).port 0).transfer = .answered .done
      ∧ ((inTransfer (.answer [0, 0, 0, 0])).port 0).transfer = .answer [0, 0, 0, 0]
      ∧ ((base.setPort 0 { base.port 0 with ignoring := true }).port 0).ignoring = true
      ∧ (base.port 0).transfer = .idle
      ∧ (answerOf (after (.responseRead 0 [9, 9, 9]) (inTransfer (.answer [1, 2, 3, 4]))) 0 = [1, 2, 3, 4]
        ∧ ((after (.responseRead 0 [9, 9, 9, 9]) (inTransfer (.answer [1, 2, 3, 4]))).port 0).transfer = .idle) := by
  decide +kernel

theorem test_witness_working : ((inTransfer (.inFlight (.readStatus 0))).port 0).working
    ∧ ((inTransfer (.answered .done)).port 0).working := ⟨.inl ⟨_, rfl⟩, .inr ⟨_, rfl⟩⟩

/-- RDY in ANSWER alone; ATN while a notice stands in the queue, until NOTICE TAKE empties it; bit 2 of the flags reports it. -/
theorem test_port_pins :
    (let s := inTransfer (.answered .done)
     let t := after (.responseMade ⟨0, false⟩) s
     !(s.port 0).rdy && (t.port 0).rdy && ((after (.responseRead 0 [0, 0, 0]) t).port 0).rdy
      && !((after (.responseRead 0 [0, 0, 0, 0]) t).port 0).rdy && (base.port 0).atn && answerOf t 0 == [0, 4, 0, 252]
      && !((after (.noticeTake 0) base).port 0).atn) = true := by decide +kernel

/-- R181: a transfer held from WORKING over the making of the response is ignored to its end, and the next one reads the whole
response, which reports the overlap. -/
theorem test_held_transfer :
    (let t := after (.responseMade ⟨0, true⟩) (after (.overlapTransfer 0 [7]) (inTransfer (.answered .done)))
     let u := after (.overlapTransfer 0 [7, 7, 7, 7, 7]) t
     (t.port 0).ignoring && !(u.port 0).ignoring && (u.port 0).sent == zeros 5 && answerOf t 0 == [0, 5, 0, 251]
      && answerOf u 0 == [0, 5, 0, 251] && ((after (.responseRead 0 [0, 0, 0, 0]) u).port 0).transfer == .idle) = true := by
  decide +kernel

/-! ### Witnesses: reads -/

/-- A job armed, three births after the current run's last switch. -/
def armedJob : State := full.withCc { full.cc with armed := some ⟨some 0, .afterBirths 2⟩, births := 3 }

/-- A transition pending. -/
def switching : State := full.withCc { full.cc with transition := some ⟨9, 3⟩ }

theorem test_witness_status :
    Met [⟨base, 3, .readStatus 3, fun t => t.cc.current.isNone && t.cc.armed.isNone && t.cc.transition.isNone⟩,
      ⟨armedJob, 0, .readStatus 0, fun t => t.cc.current.isSome && t.cc.armed.isSome⟩,
      ⟨switching, 1, .readStatus 1, fun t => t.cc.transition.isSome⟩] := met_of (by decide +kernel)

theorem test_witness_config :
    Met [⟨base, 0, .readConfig 0 0, fun _ => true⟩, ⟨base, 1, .readConfig 1 1, fun _ => true⟩,
      ⟨base, 2, .readConfig 2 2, fun _ => true⟩, ⟨base, 3, .readConfig 3 3, fun _ => true⟩,
      ⟨base, 0, .readConfig 0 4, fun _ => true⟩, ⟨base, 0, .readConfig 0 5, fun _ => true⟩] := met_of (by decide +kernel)

theorem test_witness_record :
    Met [⟨full, 0, .readRecord 0 2 0, fun _ => true⟩, ⟨full, 0, .readRecord 0 0 16, fun t => t.resolve 16 == .newer⟩,
      ⟨full, 0, .readRecord 0 0 4294967295, fun t => t.resolve 0xFFFFFFFF#32 == .gone⟩,
      ⟨base, 0, .readRecord 0 0 0, fun t => t.resolve 0 == .newer⟩,
      ⟨full, 0, .readRecord 0 1 16, fun t => decide (t.config.lineLength ≤ 16)⟩,
      ⟨base, 0, .readRecord 0 1 15, fun t => decide (15 < t.config.lineLength) && (t.recordAt 15).isNone⟩,
      ⟨full, 0, .readRecord 0 1 15, fun t => decide (15 < t.config.lineLength) && (t.recordAt 15).isSome⟩,
      ⟨full, 0, .readRecord 0 0 15, fun t => t.resolve 15 == .found 0 (aRecord 15 .open_ .undecided)⟩] :=
  met_of (by decide +kernel)

/-- The clauses of R45 on one ring: the newest seq, one above it, one below the oldest, and an untouched part. -/
theorem test_witness_resolution :
    full.tl.born = true ∧ (15#32 - (full.tl.nextSeq - 1)).toInt = 0 ∧ (16#32 - (full.tl.nextSeq - 1)).toInt = 1
      ∧ (∀ r ∈ full.tl.ring, r.seq ≠ 0xFFFFFFFF#32) ∧ base.tl.born = false
      ∧ full.tl.ring[15]? = some (aRecord 0 .open_ .good) := by decide +kernel

theorem test_witness_store_reads :
    Met [⟨full, 0, .readSegments 0 0 0, fun _ => true⟩, ⟨full, 0, .readSegments 0 0 13, fun _ => true⟩,
      ⟨full, 0, .readSegments 0 245 12, fun _ => true⟩,
      ⟨full, 0, .readSegments 0 244 12, fun t => !t.segmentLive 244 && t.rs.segments[255]?.isSome⟩,
      ⟨full, 0, .readSegments 0 1 1, fun t => t.segmentLive 1 && t.rs.segments[1]? == some ⟨200, 60⟩⟩,
      ⟨full, 0, .readProfile 0 64, fun _ => true⟩, ⟨full, 0, .readProfile 0 63, fun t => !t.profileLive 63⟩,
      ⟨full, 0, .readProfile 0 0, fun t => t.profileLive 0⟩, ⟨full, 0, .readRecipe 0 16, fun _ => true⟩,
      ⟨full, 0, .readRecipe 0 15, fun t => t.recipe 15 == none⟩,
      ⟨full, 0, .readRecipe 0 0, fun t => t.recipe 0 == some someRecipe⟩] := met_of (by decide +kernel)

/-- The open batch with one good envelope. -/
def counting : State := full.withCu ⟨⟨4, some ⟨1, 0, 7, 2, 3⟩, 1, 0, 0, 0, false⟩, 4, false⟩

theorem test_witness_batches :
    Met [⟨base, 0, .readBatch 0, fun t => t.cu.batch.owner.isNone⟩, ⟨counting, 0, .readBatch 0, fun t => t.cu.batch.owner.isSome⟩,
      ⟨base, 0, .boxPeek 0, fun t => t.bq.entries.isEmpty⟩, ⟨base, 2, .boxTake 2, fun t => t.bq.entries.isEmpty⟩,
      ⟨boxed base 16, 1, .boxPeek 1, fun t => t.bq.entries.length == 16⟩,
      ⟨boxed base 1, 2, .boxTake 2, fun t => t.bq.entries == [anEntry 1] && t.fh.backlog == t.bq.standing⟩] :=
  met_of (by decide +kernel)

/-- The notices of a port after those that it held before, newest last. -/
def sentTo (s t : State) (p : PortId) : List Notice :=
  ((t.port p).queue.drop (s.port p).queue.length).map NoticeRecord.notice

/-- The backlog test at the threshold 12 and one below it, with the cause WITHDRAWN and STANDING, HOLD ACTIVE or not. -/
theorem test_backlog :
    (let standing := fun n => (boxed base n).setBacklog true
     let held := fun s : State => s.withFh { s.fh with hold := true }
     (boxed base 11).testBacklog == boxed base 11 && (standing 12).testBacklog == standing 12
      && (boxed base 12).testBacklog.bq.standing && sentTo base (boxed base 12).testBacklog 2 == [.backlog 12 12 1]
      && sentTo base (boxed base 12).testBacklog 0 == [.holdChanged true ⟨false, false, false⟩ (Vector.replicate 4 false) true]
      && sentTo base (held (boxed base 12)).testBacklog 0 == []
      && !(standing 11).testBacklog.bq.standing && sentTo base (standing 11).testBacklog 2 == []
      && sentTo base (held (standing 11)).testBacklog 0
        == [.holdChanged false ⟨false, false, false⟩ (Vector.replicate 4 false) false]) = true := by decide +kernel

theorem test_witness_notices :
    Met [⟨base, 0, .noticeTake 0, fun t => (t.port 0).queue.length == 1⟩,
      ⟨base.setPort 0 { base.port 0 with queue := List.replicate 32 ⟨0, .overspeed 1 .forward⟩, overflow := true }, 0,
        .noticeTake 0, fun t => (t.port 0).queue.length == 32 && (t.port 0).overflow⟩] := met_of (by decide +kernel)

/-! ### Witnesses: position, speed, line state -/

theorem settledAt_counts (e : Nat) (b : Bool) :
    (settledAt full e b).makesCount riseA .forward ∧ (settledAt full e b).makesCount riseB .reverse := by
  refine ⟨⟨rfl, ?_, false, false, ⟨rfl, rfl, rfl⟩, ?_⟩, ⟨rfl, ?_, false, false, ⟨rfl, rfl, rfl⟩, ?_⟩⟩
  · exact Nat.le_refl 33
  · exact List.Mem.head _
  · exact Nat.le_refl 33
  · exact List.Mem.tail _ (List.Mem.tail _ (List.Mem.tail _ (List.Mem.head _)))

/-- The inputs settled at levels of A and B, in a count mode, at e = 5. -/
def settledIn (m : CountMode) (a b : Bool) : State :=
  full.withPu { full.pu with
    encA := ⟨some a, none⟩, encB := ⟨some b, none⟩, encZ := ⟨some false, none⟩, e := 5, angle := 5, config := { full.config with countMode := m } }

/-- CountMovesTheAngle: a row of X1, X2 and PULSE-DIR in each direction; both inputs may change in PULSE-DIR. -/
theorem test_witness_count_modes :
    (settledIn .x1 false false).makesCount riseA .forward ∧ (settledIn .x1 true false).makesCount ⟨false, false, false, 33⟩ .reverse
      ∧ (settledIn .x2 true true).makesCount ⟨false, true, false, 33⟩ .forward
      ∧ (settledIn .x2 false true).makesCount ⟨true, true, false, 33⟩ .reverse
      ∧ (settledIn .pulseDir false true).makesCount riseA .forward
      ∧ (settledIn .pulseDir false false).makesCount ⟨true, true, false, 33⟩ .reverse :=
  ⟨⟨rfl, Nat.le_refl 33, false, false, ⟨rfl, rfl, rfl⟩, rfl, rfl, rfl, rfl⟩,
    ⟨rfl, Nat.le_refl 33, true, false, ⟨rfl, rfl, rfl⟩, rfl, rfl, rfl, rfl⟩,
    ⟨rfl, Nat.le_refl 33, true, true, ⟨rfl, rfl, rfl⟩, .inr ⟨rfl, rfl, rfl, rfl⟩⟩,
    ⟨rfl, Nat.le_refl 33, false, true, ⟨rfl, rfl, rfl⟩, .inl ⟨rfl, rfl, rfl, rfl⟩⟩,
    ⟨rfl, Nat.le_refl 33, false, true, ⟨rfl, rfl, rfl⟩, rfl, rfl, rfl⟩,
    ⟨rfl, Nat.le_refl 33, false, false, ⟨rfl, rfl, rfl⟩, rfl, rfl, rfl⟩⟩

theorem test_count_modes :
    (let e := fun m a b r => (after (.encoderCount r) (settledIn m a b)).pu.e
     [e .x1 false false riseA, e .x1 true false ⟨false, false, false, 33⟩, e .x2 true true ⟨false, true, false, 33⟩,
        e .x2 false true ⟨true, true, false, 33⟩, e .pulseDir false true riseA, e .pulseDir false false ⟨true, true, false, 33⟩]
      == [6, 4, 6, 4, 6, 4]) = true := by decide +kernel

/-- CountMovesTheAngle: e one below the last count of the cycle, at it with b = 0 and b = 1, and at 0 and 1 in reverse. -/
theorem test_witness_counts :
    ((settledAt full 4094 false).pu.e + 1 < (settledAt full 4094 false).config.cpc)
      ∧ ((settledAt full 4095 true).pu.e + 1 = (settledAt full 4095 true).config.cpc ∧ (settledAt full 4095 true).pu.backlash = true)
      ∧ ((settledAt full 4095 false).pu.e + 1 = (settledAt full 4095 false).config.cpc
        ∧ (settledAt full 4095 false).pu.backlash = false)
      ∧ (settledAt full 0 false).pu.e = 0 ∧ (settledAt full 0 true).pu.backlash = true ∧ 0 < (settledAt full 1 false).pu.e := by
  decide +kernel

/-- The count of R2 at work: from e = 4095 with b = 0 the pitch count and the sequence counter move by one. -/
theorem test_pitch_advance :
    (let t := after (.encoderCount riseA) (settledAt full 4095 false)
     t.pu.pitch == 1 && t.pu.e == 0 && t.tl.nextSeq == 17 && decide (t.tl.ring.length = 16) && t.pu.lineState == .crawl)
      = true := by decide +kernel

/-- Two reverse wraps without a forward one raise REVERSE OVERRUN. -/
theorem test_reverse_overrun :
    (let t := after (.encoderCount riseB) (settledAt full 0 true)
     t.fh.reverseOverrun == ⟨true, 1⟩ && t.fh.hold && t.pu.e == 4095 && t.tl.ring.all fun r => hasCode r.defects 2) = true := by
  decide +kernel

/-- Out of STOPPED a count ends every test pulse, and a reverse count every pulse too; the raise is told after LINE STATE. -/
theorem test_leaving_stopped :
    (let work := fun s : State => s.setOutput 3 { s.output 3 with test := some 7, pulses := [⟨15, 0, 9000, 1⟩] }
     let forward := after (.encoderCount riseA) (work (settledAt full 5 false))
     let reverse := after (.encoderCount riseB) (work (settledAt full 0 true))
     let added := after .internalAddition (work (driven full 0 1))
     let rests := after .internalAddition (work (driven full 0 0))
     (forward.output 3).test.isNone && (forward.output 3).pulses.length == 1 && (reverse.output 3).test.isNone
      && (reverse.output 3).pulses.isEmpty && (added.output 3).test.isNone && (rests.output 3).test == some 7
      && sentTo full reverse 0 == [.lineState .reverse .stopped 0, .trackingFault .reverseOverrun 4095 true 4095 16 0,
        .holdChanged true ⟨true, false, false⟩ (Vector.replicate 4 false) false]
      && sentTo full reverse 3 == [.trackingFault .reverseOverrun 4095 true 4095 16 0]) = true := by decide +kernel

/-- ForwardWrapIsAPitchAdvance: an encoder count, and an addition that carries exactly to the end of the range. -/
theorem test_witness_advances :
    (settledAt full 4095 false).advances (.encoder riseA) ∧ (driven full 268328082 2400).advances .addition := by
  refine ⟨⟨(settledAt_counts 4095 false).1, rfl, Nat.le_refl 4096⟩, rfl, rfl, ?_⟩
  decide +kernel

/-- One pitch advance: every k one more, every seen-bad flag cleared; the pitch count wraps. -/
theorem test_advance_parts :
    (let s := (full.setOutput 3 { full.output 3 with armed := [⟨15, 0, 100, 50, 1, 100, 150⟩], pulses := [⟨15, 0, 150, 0⟩] }).setProbe 2
       { full.probe 2 with seenBad := true, lastEval := some 3 }
     (s.advanceFiring.output 3).armed.map Occurrence.k == [2] && (s.advanceFiring.output 3).pulses.map Pulse.k == [1]
      && s.clearSeen.probe 2 == { s.probe 2 with seenBad := false }
      && (s.withPu { s.pu with pitch := 0xFFFFFFFF#32 }).countPitch.pu.pitch == 0) = true := by decide +kernel

/-- The state with the index check on, at an edge count, a direction and b, ENC_Z low. -/
def indexed (e : Nat) (d : Direction) (b : Bool) : State :=
  let s := settledAt full e b
  s.withPu { s.pu with dir := d, config := { s.config with indexEnable := true } }

def riseZ : SampleRun := ⟨false, false, true, 33⟩

/-- IndexEdgeCorrectsTheEdgeCount: its hypotheses at every edge count that is tried, and the values where its clauses meet. -/
theorem test_witness_index (e : Nat) (d : Direction) (b : Bool) :
    (indexed e d b).config.source = .encoder ∧ (indexed e d b).config.indexEnable = true ∧ (indexed e d b).accepts riseZ
      ∧ (indexed e d b).pu.settled riseZ.a riseZ.b false ∧ riseZ.z = true ∧ (indexed e d b).pu.dir = d
      ∧ (indexed e d b).pu.e = e ∧ (indexed e d b).config.cpc = 4096 ∧ (indexed e d b).config.indexTolerance = 8
      ∧ (indexed e d b).pu.backlash = b :=
  ⟨rfl, rfl, Nat.le_refl 33, ⟨rfl, rfl, rfl⟩, rfl, rfl, rfl, rfl, rfl, rfl⟩

/-- e = 8 and e = 4088 are within a tolerance of 8, e = 9 and e = 4087 outside; e = 2048 steps back, e = 2049 wraps. -/
theorem test_index_edges :
    (let run := fun e => after (.indexEdge riseZ) (indexed e .forward false)
     !(run 8).fh.indexSlip.latched && (run 9).fh.indexSlip.latched && !(run 4088).fh.indexSlip.latched
      && (run 4087).fh.indexSlip.latched && (run 2048).pu.pitch == 0 && (run 2049).pu.pitch == 1 && (run 2049).pu.e == 0)
      = true := by decide +kernel

/-- INDEX SLIP carries its index error, positive where the correction steps back and negative where it wraps. -/
theorem test_index_errors :
    (let run := fun e => after (.indexEdge riseZ) (indexed e .forward true)
     sentTo full (run 9) 3 == [.trackingFault .indexSlip 0 true 0 16 9]
      && sentTo full (run 4087) 3 == [.trackingFault .indexSlip 0 false 0 16 (-9)] && sentTo full (run 8) 3 == []) = true := by
  decide +kernel

/-- An index edge at the sample of a count, forward and in reverse, and of a quadrature error. -/
theorem test_witness_index_with_a_change (e : Nat) (d : Direction) (b : Bool) :
    (indexed e d b).accepts ⟨true, false, true, 33⟩ ∧ (indexed e d b).pu.settled false false false
      ∧ countRow (indexed e d b).config.countMode false false true false .forward
      ∧ countRow (indexed e d b).config.countMode false false false true .reverse
      ∧ (indexed e d b).config.countMode ≠ .pulseDir := by
  refine ⟨Nat.le_refl 33, ⟨rfl, rfl, rfl⟩, List.Mem.head _, ?_, fun h => nomatch h⟩
  exact List.Mem.tail _ (List.Mem.tail _ (List.Mem.tail _ (List.Mem.head _)))

/-- The forward count comes first: from 7 and 4,087 it comes within the tolerance, from 8 not; from 2,047 the correction steps
back, from 2,048 it wraps; from 4,095 the count itself wraps. After a reverse count the edge is ignored, and so it is with a
quadrature error in REVERSE. -/
theorem test_index_with_a_change :
    (let count := fun e => after (.indexEdge ⟨true, false, true, 33⟩) (indexed e .forward false)
     let back := after (.indexEdge ⟨false, true, true, 33⟩) (indexed 9 .forward false)
     let both := after (.indexEdge ⟨true, true, true, 33⟩) (indexed 9 .reverse false)
     !(count 7).fh.indexSlip.latched && (count 8).fh.indexSlip.latched && !(count 4087).fh.indexSlip.latched
      && (count 2047).pu.pitch == 0 && (count 2048).pu.pitch == 1 && (count 4095).pu.pitch == 1
      && !(count 4095).fh.indexSlip.latched && back.pu.e == 8 && !back.fh.indexSlip.latched
      && both.fh.quadratureError == ⟨true, 1⟩ && !both.fh.indexSlip.latched && both.pu.e == 9) = true := by decide +kernel

/-- QuadratureErrorIsRaised: both inputs change at one sample, with the fault CLEAR and latched. -/
theorem test_witness_quadrature :
    (settledAt full 5 false).config.source = .encoder ∧ (settledAt full 5 false).config.countMode ≠ .pulseDir
      ∧ (settledAt full 5 false).accepts ⟨true, true, false, 33⟩ ∧ (settledAt full 5 false).pu.settled false false false
      ∧ (settledAt full 5 false).fh.quadratureError.latched = false
      ∧ (after (.quadratureError ⟨true, true, false, 33⟩) (settledAt full 5 false)).fh.quadratureError = ⟨true, 1⟩ := by
  refine ⟨rfl, by decide, Nat.le_refl 33, ⟨rfl, rfl, rfl⟩, rfl, ?_⟩
  decide +kernel

/-- LevelsAreFilteredAndAccepted: 33 samples are accepted and 32 are held at FILTER 3; a falling ENC_Z counts nothing; the first
levels after reset; levels that are accepted already. -/
theorem test_witness_levels :
    (settledAt full 5 false).pu.settled false false false ∧ (settledAt full 5 false).accepts ⟨false, false, true, 33⟩
      ∧ (settledAt full 5 false).config.indexEnable = false ∧ 32 < 4 * 2 ^ (settledAt full 5 false).config.filter + 1
      ∧ (driven full 0 0).config.source = .internal ∧ base.pu.encA = ⟨none, none⟩ ∧ base.pu.encB = ⟨none, none⟩
      ∧ base.pu.encZ = ⟨none, none⟩ ∧ base.accepts ⟨true, true, true, 33⟩
      ∧ (settledAt full 5 false).pu.encA.accepted = some false := by
  refine ⟨⟨rfl, rfl, rfl⟩, Nat.le_refl 33, rfl, by decide, rfl, rfl, rfl, rfl, Nat.le_refl 33, rfl⟩

/-- A run of 0 samples leaves a hold as it stands, at the accepted level and at another; one sample starts or ends one. -/
theorem test_no_samples :
    (let quiet : InputFilter := ⟨some false, none⟩
     let held : InputFilter := ⟨some false, some ⟨true, 5, 3⟩⟩
     held.run false 0 3 == (held.holding, none) && held.run true 0 3 == (held.holding, none) && held.run false 1 3 == (none, none)
      && quiet.run true 0 3 == (none, none) && quiet.run true 1 3 == (some ⟨true, 1, 3⟩, none)) = true := by decide +kernel

/-- AdditionMovesTheAngle: totals one below the range and at it, with Sd above 0 in STOPPED, and the source ENCODER. -/
theorem test_witness_additions :
    full.config.source = .encoder ∧ (driven full 268328081 2400).config.source = .internal
      ∧ (driven full 268328081 2400).pu.acc + (2 * (2400 * 4096 * 65536) + 6000000) / 12000000 = 268435455
      ∧ (driven full 268328082 2400).pu.acc + (2 * (2400 * 4096 * 65536) + 6000000) / 12000000 = 268435456
      ∧ (driven full 0 1).pu.lineState = .stopped ∧ 0 < (driven full 0 1).pu.sd
      ∧ (after .internalAddition (driven full 268328082 2400)).pu.pitch = 1 := by decide +kernel

/-- The state with a net count of the interval, in a line state, with the last quiet gate count. -/
def gating (n : Int) (l : LineState) (quiet : Nat) : State :=
  full.withPu { full.pu with interval := n, lineState := l, quiet := quiet, gates := ⟨0, n, n, n⟩ }

/-- SpeedGateGivesSpeedAndAdvances and GateSetsTheLineState: v = 2,400 and v = 2,401 with CPC 4,096; the line states that the
five conditions give, at their limits. -/
theorem test_witness_gates :
    (let run := fun n l q => after .speedGate (gating n l q)
     (run 1638 .crawl 0).pu.speed == 2399 && (run 1639 .crawl 0).pu.speed == 2400 && (run 1639 .crawl 0).pu.saturated
      && !(run 1638 .crawl 0).pu.saturated
      && (run 0 .stopped 3).pu.lineState == .stopped && (run 0 .run 9).pu.lineState == .stopped
      && (run 0 .reverse 8).pu.lineState == .reverse && (run (-1) .crawl 0).pu.lineState == .reverse
      && (run 1 .reverse 0).pu.lineState == .crawl && (run 410 .crawl 0).pu.lineState == .run
      && (run 409 .crawl 0).pu.lineState == .crawl && (run 389 .run 0).pu.lineState == .run
      && (run 388 .run 0).pu.lineState == .crawl) = true := by decide +kernel

/-- An advance of 2,048 is no clamp and one of 2,049 is: latency 20,000 at 1,500 and 1,501 epm; a disabled output holds 0. -/
theorem test_recomputation :
    (let at_ := fun (speed : Nat) (clamped : Bool) =>
       let s := full.withPu { full.pu with speed := speed }
       s.setOutput 3 { s.output 3 with
         config := { (s.output 3).config with enable := true, lon := 20000 }, clamped := clamped, armed := [⟨15, 0, 100, 50, 0, 100, 150⟩] }
     let off := full.setOutput 3 { full.output 3 with clamped := true }
     let run := fun s : State => s.recomputeOutput 3
     ((run (at_ 1500 false)).output 3).aOn == 2048 && sentTo full (run (at_ 1500 false)) 0 == []
      && ((run (at_ 1501 false)).output 3).aOn == 2048 && sentTo full (run (at_ 1501 false)) 0 == [.timingLimit 3 true 1501 2049 0]
      && sentTo full (run (at_ 1500 true)) 0 == [.timingLimit 3 false 1500 2048 0]
      && ((run (at_ 1500 false)).output 3).armed.map Occurrence.on == [-1948] && sentTo full (run off) 0 == [.timingLimit 3 false 0 0 0])
      = true := by decide +kernel

/-- A change of line state: leaving STOPPED ends the test pulses, leaving RUN the pulses of run-only outputs, entering REVERSE
every pulse. -/
theorem test_line_states :
    (let work := fun (runOnly : Bool) (l : LineState) => (withLine full l).setOutput 3 { full.output 3 with
       config := { (full.output 3).config with enable := true, runOnly := runOnly }, test := some 7, pulses := [⟨15, 0, 150, 1⟩] }
     let left := fun s : State => ((s.output 3).pulses.length, (s.output 3).test)
     left ((work true .run).setLineState .crawl) == (0, some 7) && left ((work false .run).setLineState .crawl) == (1, some 7)
      && left ((work false .crawl).setLineState .reverse) == (0, some 7) && left ((work true .crawl).setLineState .crawl) == (1, some 7)
      && left ((work true .stopped).leaveStopped .crawl) == (1, none) && left ((work true .crawl).leaveStopped .reverse) == (1, some 7)
      && sentTo full ((work true .run).setLineState .crawl) 0 == [.lineState .crawl .run 0]) = true := by decide +kernel

theorem test_witness_gate_sources :
    (gating 1639 .crawl 0).config.source = .encoder ∧ (gating 1639 .crawl 0).pu.saturated = false
      ∧ ((gating 1639 .crawl 0).port 0).role = .line ∧ ((gating 1639 .crawl 0).port 0).queue.length < 31
      ∧ (driven full 0 2400).config.source = .internal ∧ (gating 0 .stopped 3).pu.lineState = .stopped
      ∧ (gating 0 .run 9).pu.lineState ≠ .stopped := by decide +kernel

/-! ### Witnesses: settings -/

theorem test_witness_source_and_drive :
    Met [⟨full, 0, .source 0 2, fun _ => true⟩, ⟨withLine full .crawl, 0, .source 0 1, fun t => t.pu.lineState == .crawl⟩,
      ⟨full, 0, .source 0 0, fun t => t.config.source == .encoder && t.pu.lineState == .stopped⟩,
      ⟨full, 0, .source 0 1, fun t => t.config.source == .encoder && t.pu.lineState == .stopped⟩,
      ⟨driven full 0 0, 0, .source 0 0, fun t => t.config.source == .internal && t.pu.lineState == .stopped⟩,
      ⟨driven full 0 0, 0, .drive 0 2401 1, fun _ => true⟩, ⟨driven full 0 0, 0, .drive 0 0 0, fun _ => true⟩,
      ⟨driven full 0 0, 0, .drive 0 0 201, fun _ => true⟩, ⟨full, 0, .drive 0 2400 200, fun t => t.config.source == .encoder⟩,
      ⟨driven full 0 0, 0, .drive 0 2400 1, fun t => t.config.source == .internal⟩] := met_of (by decide +kernel)

/-- The output O3 enabled with its station at 15, the last position. -/
def placed : State := stocked.setOutput 3 { stocked.output 3 with config := { (stocked.output 3).config with enable := true, station := 15 } }

/-- LineConfigIsJudgedInOrder: a field out of range, an output beyond the new line, RUN, records on the line, the fields in
force, a new backlog threshold, a new CPC under both sources, and both changes of source. -/
theorem test_witness_lineConfig :
    Met [⟨base, 0, .lineConfig 0 { goodLine with count := 16 }, fun _ => true⟩,
      ⟨placed, 0, .lineConfig 0 { goodLine with lineLength := 15 }, fun t => (t.output 3).config.enable⟩,
      ⟨withLine base .run, 0, .lineConfig 0 goodLine, fun t => t.pu.lineState == .run⟩,
      ⟨full, 0, .lineConfig 0 { goodLine with gate := 11 }, fun t => !t.tl.ring.isEmpty && t.pu.lineState == .stopped⟩,
      ⟨full, 0, .lineConfig 0 { goodLine with backlog := 16 }, fun t => t.pu.lineState == .stopped⟩,
      ⟨full, 0, .lineConfig 0 goodLine, fun t => t.config.fields == goodLine⟩,
      ⟨full, 0, .lineConfig 0 { goodLine with cpc := 16384 }, fun t => t.config.source == .encoder⟩,
      ⟨driven full 0 0, 0, .lineConfig 0 { goodLine with cpc := 256, source := 1 }, fun t => t.config.source == .internal⟩,
      ⟨driven full 0 0, 0, .lineConfig 0 goodLine, fun t => t.config.source == .internal⟩,
      ⟨full, 0, .lineConfig 0 { goodLine with source := 1 }, fun t => t.config.source == .encoder⟩,
      ⟨full, 0, .lineConfig 0 { goodLine with source := 1, cpc := 256 }, fun t => t.config.source == .encoder⟩] :=
  met_of (by decide +kernel)

/-- The probe IN0 enabled at position 0 over the angles 100 to 199, with the line at an angle. -/
def probing (angle : Nat) : State :=
  let s := full.setProbe 0 ⟨⟨true, 0, 100, 200, true, 1, .blank⟩, false, none, 1⟩
  s.withPu { s.pu with angle := angle }

theorem test_witness_probeConfig :
    Met [⟨base, 0, .probeConfig 0 { goodProbe with position := 16 }, fun _ => true⟩,
      ⟨base, 0, .probeConfig 0 { goodProbe with position := 15, onAngle := 4094, offAngle := 4095 }, fun _ => true⟩,
      ⟨base, 0, .probeConfig 0 { goodProbe with kind := 0, code := 99 }, fun _ => true⟩,
      ⟨base, 0, .probeConfig 0 { goodProbe with kind := 1, code := 16 }, fun _ => true⟩] := met_of (by decide +kernel)

/-- PROBE_SAMPLE: counted at the angles 100 and 199, not at 99 and 200; a good level starts the run again. -/
theorem test_probe_window :
    (let run := fun a => (after (.probeSample (Vector.replicate 6 true)) (probing a)).probe 0
     (run 100).seenBad && (run 199).seenBad && !(run 99).seenBad && !(run 200).seenBad && (run 100).badRun == 2
      && ((after (.probeSample (Vector.replicate 6 false)) (probing 100)).probe 0).badRun == 0
      && (probing 100).pu.dir == .forward && !(probing 100).pu.backlash && ((probing 100).probe 0).config.enable
      && !((probing 100).probe 1).config.enable) = true := by decide +kernel

theorem test_witness_outputConfig :
    Met [⟨base, 0, .outputConfig 0 { goodOutput with lon := 20001 }, fun _ => true⟩,
      ⟨base, 0, .outputConfig 0 { goodOutput with station := 16 }, fun _ => true⟩,
      ⟨base, 0, .outputConfig 0 { goodOutput with station := 11, gating := 2 }, fun _ => true⟩,
      ⟨base, 0, .outputConfig 0 { goodOutput with station := 14, gating := 4 }, fun _ => true⟩,
      ⟨withLine base .crawl, 0, .outputConfig 0 goodOutput, fun t => t.pu.lineState == .crawl⟩,
      ⟨base, 0, .outputConfig 0 ⟨5, 0, 1, 1, 1, 0, 0, 255, 0, 255⟩,
        fun t => (t.output 5).config.fields == ⟨0, 0, 1, 1, 1, 0, 0, 255, 0, 255⟩⟩,
      ⟨base, 0, .outputConfig 0 { goodOutput with station := 15, gating := 4, lon := 20000 }, fun t => t.pu.lineState == .stopped⟩,
      ⟨base, 0, .outputConfig 0 { goodOutput with enable := 0, station := 63 }, fun t => t.pu.lineState == .stopped⟩] :=
  met_of (by decide +kernel)

/-- A test pulse of `n` microseconds on O3. -/
def pulsing (n : Nat) : State := placed.setOutput 3 { placed.output 3 with test := some n }

theorem test_witness_testPulse :
    Met [⟨placed, 0, .testPulse 0 16 1, fun _ => true⟩, ⟨placed, 3, .testPulse 3 3 0, fun _ => true⟩,
      ⟨placed, 3, .testPulse 3 3 1001, fun _ => true⟩,
      ⟨withLine placed .crawl, 3, .testPulse 3 3 1000, fun t => t.pu.lineState == .crawl⟩,
      ⟨placed, 3, .testPulse 3 4 1000, fun t => !(t.output 4).config.enable⟩,
      ⟨pulsing 1, 3, .testPulse 3 3 1000, fun t => (t.output 3).test == some 1⟩,
      ⟨placed, 3, .testPulse 3 3 1000, fun t => (t.output 3).test.isNone && (t.output 3).config.enable⟩] :=
  met_of (by decide +kernel)

/-- The time base: a test pulse with 2 µs left has 1 after an idle step, and one with 1 ends. -/
theorem test_idle_steps :
    ((pulsing 2).pending = [] ∧ ((pulsing 2).tick.output 3).test = some 1) ∧ ((pulsing 1).tick.output 3).test = none
      ∧ ((after (.testPulseEnd 3) (pulsing 7)).output 3).test = none := by decide +kernel

/-- The level of an output line: with polarity HIGH and LOW, at rest, with a test pulse, with a pulse; a disabled output. -/
theorem test_output_levels :
    (let out := fun (high : Bool) (test : Option Nat) (pulses : List Pulse) =>
       ({ placed.output 3 with config := { (placed.output 3).config with activeHigh := high }, test := test, pulses := pulses } : OutputUnit)
     !(out true none []).level && (out true (some 1) []).level && (out true none [⟨15, 0, 150, 1⟩]).level
      && (out false none []).level && !(out false (some 1) []).level && !(out false none [⟨15, 0, 150, 1⟩]).level
      && !(base.output 3).config.enable && !(base.output 3).level) = true := by decide +kernel

theorem test_witness_trim :
    Met [⟨base, 0, .trimConfig 0 { goodTrim with low := 8 }, fun _ => true⟩,
      ⟨base, 0, .trimConfig 0 { goodTrim with mode := 1 }, fun t => (t.group 0).config.fields == { goodTrim with mode := 1 }⟩,
      ⟨base, 0, .trimConfig 0 { goodTrim with tmax := 127 }, fun t => (t.group 0).t == 128⟩,
      ⟨base, 0, .trimConfig 0 { goodTrim with tmin := 128 }, fun t => (t.group 0).t == 128⟩,
      ⟨base, 0, .setTrim 0 3 32, fun _ => true⟩, ⟨base, 0, .setTrim 0 2 31, fun _ => true⟩,
      ⟨base, 0, .setTrim 0 2 256, fun _ => true⟩,
      ⟨base, 0, .setTrim 0 2 255, fun t => (t.group 2).config.tmax == 255⟩] := met_of (by decide +kernel)

/-- The trim group 0 after a step DOWN, with H = 1, K = 10 and one request UP, at a pitch count. -/
def regulating (pitch : Nat) : State :=
  let s := full.withPu { full.pu with pitch := BitVec.ofNat 32 pitch }
  s.setGroup 0 { s.group 0 with lastStep := some .down, request := some .up, count := 1 }

/-- TrimStepNeedsAgreementAndTick: two requests are needed; the tick has passed at pitch 10 and not at 9; one request alone in
the other direction than the last request does not step. -/
theorem test_trim_steps :
    ((regulating 10).requestTrim 0 .up 20).group 0 = { (regulating 10).group 0 with
        t := 130, lastStep := some .up, count := 0, lastPitch := 10 }
      ∧ (((regulating 9).requestTrim 0 .up 20).group 0).count = 2 ∧ (((regulating 9).requestTrim 0 .up 20).group 0).t = 128
      ∧ (((regulating 10).requestTrim 0 .down 100).group 0).t = 126 := by decide +kernel

/-- The group 0 in a mode, with a record of seq 12 that has RAMP or not. -/
def measuring (mode : TrimMode) (ramp : Bool) : State :=
  let s := full.setGroup 0 { full.group 0 with config := { (full.group 0).config with mode := mode }, count := 1 }
  s.modifyAt 3 fun r => if ramp then r.addDefect 0 else r

/-- A step UP by 2 from 254 is clamped onto 255 with TRIM LIMIT; from 253 it reaches 255 unclamped, and from 255 it stays. -/
theorem test_trim_limits :
    (let at_ := fun t => full.setGroup 0 { full.group 0 with t := t, lastPitch := 0xFFFFFFF0#32 }
     let run := fun t => (at_ t).requestTrim 0 .up 20
     ((run 254).group 0).t == 255 && sentTo full (run 254) 0 == [.trimLimit 0 true 255 .up 20] && ((run 253).group 0).t == 255
      && sentTo full (run 253) 0 == [] && ((run 255).group 0).t == 255 && sentTo full (run 255) 0 == []
      && sentTo full ((at_ 33).requestTrim 0 .down 99) 0 == [.trimLimit 0 false 32 .down 99]) = true := by decide +kernel

/-- A measurement at both ends of each class: noise 8, low 40, high 90. -/
theorem test_measurements :
    (let run := fun m => (measuring .auto false).measure 0 12 m
     let seen := fun s : State => ((s.group 0).request, (s.group 0).count)
     ((run 8).recordAt 3).map (fun r => hasCode r.defects 6) == some true && seen (run 8) == (none, 1)
      && seen (run 9) == (some .up, 1) && seen (run 39) == (some .up, 1) && seen (run 40) == (none, 0) && seen (run 90) == (none, 0)
      && seen (run 91) == (some .down, 1) && seen ((measuring .auto true).measure 0 12 9) == (none, 1)
      && seen ((measuring .manual false).measure 0 12 9) == (none, 1)
      && (measuring .auto false).recordOf 12 == some (aRecord 12 .open_ .undecided)) = true := by decide +kernel

/-- The point IP1 enabled, bound to P1, in its state. -/
def pointed (s : State) (offline : Bool) (timeouts : Nat) : State :=
  s.setPoint 1 ⟨⟨true, 3, 6, 1, .reject, some 0, 2⟩, offline, timeouts⟩

theorem test_witness_points :
    Met [⟨base, 0, .pointConfig 0 { goodPoint with deadline := 3 }, fun _ => true⟩,
      ⟨base, 0, .pointConfig 0 { goodPoint with deadline := 12 }, fun t => decide (t.config.gate ≤ 12)⟩,
      ⟨base, 0, .pointConfig 0 { goodPoint with boundPort := 2 }, fun t => (t.port 2).role != .inspect⟩,
      ⟨full, 0, .pointConfig 0 goodPoint, fun t => !t.tl.ring.isEmpty⟩,
      ⟨base, 0, .pointConfig 0 ⟨0, 0, 1, 2, 0, 0, 255, 8⟩, fun t => (t.point 0).config.fields == ⟨0, 0, 1, 2, 0, 0, 255, 8⟩⟩,
      ⟨base, 0, .pointConfig 0 { goodPoint with deadline := 11, limit := 32 }, fun t => t.tl.ring.isEmpty⟩,
      ⟨base, 0, .pointResume 0 4, fun _ => true⟩, ⟨base, 1, .pointResume 1 0, fun t => (t.point 0).config.port != 1⟩,
      ⟨base, 0, .pointResume 0 0, fun t => !(t.point 0).config.enable⟩,
      ⟨pointed full false 0, 1, .pointResume 1 1, fun t => !(t.point 1).offline⟩,
      ⟨pointed full true 2, 1, .pointResume 1 1, fun t => (t.point 1).offline⟩] := met_of (by decide +kernel)

/-- DeadlineTimesOutAnOpenRecord: the count reaches the limit 2 and the point goes OFFLINE; at count 0 it does not; a FAILED
record is left. -/
theorem test_deadline :
    (((pointed full false 1).deadline 1).point 1).offline = true ∧ (((pointed full false 0).deadline 1).point 1).offline = false
      ∧ (((pointed full false 0).deadline 1).point 1).timeouts = 1 ∧ ((pointed full false 1).deadline 1).fh.hold = true
      ∧ ((pointed full false 1).recordAt 6).map (fun r => r.status[1]) = some .open_
      ∧ (pointed base false 1).recordAt 6 = none := by decide +kernel

/-- The notices of a deadline that takes the point OFFLINE, with HOLD inactive and ACTIVE, and of one that does not. -/
theorem test_deadline_notices :
    (let run := fun s : State => s.deadline 1
     let held := fun s : State => s.withFh { s.fh with hold := true }
     sentTo full (run (pointed full false 0)) 1 == [.verdictMissed 1 9 (some 1) (some 0) .reject 1]
      && sentTo full (run (pointed full false 0)) 0 == []
      && sentTo full (run (pointed full false 1)) 1 == [.verdictMissed 1 9 (some 1) (some 0) .reject 2, .pointOffline 1 9 2]
      && sentTo full (run (pointed full false 1)) 0
        == [.pointOffline 1 9 2, .holdChanged true ⟨false, false, false⟩ #v[false, true, false, false] false]
      && sentTo full (run (held (pointed full false 1))) 0 == [.pointOffline 1 9 2]) = true := by decide +kernel

/-- An arrival at the inspection position, ONLINE and OFFLINE; and one advance that sets two hold causes with HOLD inactive. -/
theorem test_arrivals :
    (let on := (pointed full false 0).inspectionArrival 1
     let off := (pointed full true 0).inspectionArrival 1
     let two := (pointed full false 1).setPoint 0 ((pointed full false 1).point 1)
     ((on.port 1).queue.map NoticeRecord.notice).getLast? == some (.arrival 1 12 (some 1) (some 0))
      && (off.recordAt 3).map (fun r => (r.status[1], hasCode r.defects 4)) == some (.timedOut, true)
      && off.ports == (pointed full true 0).ports
      && ((pointed full false 0).recordAt 3).map (fun r => r.status[1]) == some .open_
      && !two.fh.hold && newCauses two.fh (two.inspectThenCount 0).fh == 2
      && newCauses full.fh (full.inspectThenCount 0).fh == 0) = true := by decide +kernel

/-! ### Witnesses: the Recipe Store -/

theorem test_witness_putSegments :
    Met [⟨stocked, 0, .putSegments 0 0 1 [(4096, 1)], fun _ => true⟩, ⟨stocked, 0, .putSegments 0 0 1 [(0, 0)], fun _ => true⟩,
      ⟨stocked, 0, .putSegments 0 255 2 [(0, 1), (1, 1)], fun _ => true⟩,
      ⟨full, 0, .putSegments 0 1 1 [(4095, 4095)], fun t => t.segmentLive 1⟩,
      ⟨stocked, 0, .putSegments 0 0 1 [(200, 1)], fun t => !t.segmentLive 0 && t.brokenProfile (writeSegments t.rs.segments 0 [(200, 1)]) 0 1 == some 0⟩,
      ⟨stocked, 0, .putSegments 0 0 1 [(199, 1)], fun t => !t.segmentLive 0 && t.brokenProfile (writeSegments t.rs.segments 0 [(199, 1)]) 0 1 == none⟩,
      ⟨full, 0, .putSegments 0 244 12 (List.replicate 12 (4095, 4095)), fun t => (runOf 244 12).all fun i => !t.segmentLive i⟩] :=
  met_of (by decide +kernel)

theorem test_witness_putProfile :
    Met [⟨stocked, 0, .putProfile 0 64 0 1 none, fun _ => true⟩, ⟨stocked, 0, .putProfile 0 1 0 9 none, fun _ => true⟩,
      ⟨stocked, 0, .putProfile 0 1 249 8 none, fun _ => true⟩, ⟨full, 0, .putProfile 0 0 0 0 none, fun t => t.profileLive 0⟩,
      ⟨stocked, 0, .putProfile 0 63 1 2 none, fun t => !t.profileLive 63 && !(Profile.ordered ⟨1, 2, none⟩ t.rs.segments)⟩,
      ⟨stocked, 0, .putProfile 0 63 0 2 none, fun t => !t.profileLive 63 && Profile.ordered ⟨0, 2, none⟩ t.rs.segments⟩,
      ⟨stocked, 0, .putProfile 0 0 255 0 none, fun t => !t.profileLive 0⟩] := met_of (by decide +kernel)

/-- A segment of the pool stands out of order over 1 and 2 and in order over 0 and 1. -/
theorem test_strictlyAscends :
    ¬(⟨1, 2, none⟩ : Profile).strictlyAscends stocked.rs.segments ∧ (⟨1, 1, none⟩ : Profile).strictlyAscends stocked.rs.segments :=
  ⟨fun h => absurd (h 0 ⟨200, 60⟩ ⟨0, 1⟩ (by decide) (by decide +kernel) (by decide +kernel)) (by decide),
    fun i _ _ h => absurd h (by simp)⟩

theorem test_witness_putRecipe :
    Met [⟨stocked, 0, .putRecipe 0 16 0 none, fun _ => true⟩, ⟨stocked, 0, .putRecipe 0 1 1 none, fun _ => true⟩,
      ⟨stocked, 0, .putRecipe 0 1 1 (some { goodRecipe with batchSize := 9 }), fun _ => true⟩,
      ⟨stocked, 0, .putRecipe 0 1 1 (some { goodRecipe with points := 16 }), fun _ => true⟩,
      ⟨full, 0, .putRecipe 0 0 0 none, fun t => t.slotLive 0⟩, ⟨stocked, 0, .putRecipe 0 0 0 none, fun t => !t.slotLive 0⟩,
      ⟨stocked, 0, .putRecipe 0 15 1 (some { goodRecipe with outputMap := Vector.replicate 16 63 }),
        fun t => !t.slotLive 15 && (t.rs.profiles[63]).count == 0⟩,
      ⟨stocked, 0, .putRecipe 0 15 1 (some { goodRecipe with outputMap := Vector.replicate 16 0, batchSize := 5000 }),
        fun t => !t.slotLive 15 && (t.rs.profiles[0]).count != 0⟩] := met_of (by decide +kernel)

/-- NoCommandChangesALiveItem: a live slot, a live profile and a live segment in the same state. -/
theorem test_witness_live : full.liveSlot 0 ∧ full.liveProfile 0 ∧ full.liveSegment 1 :=
  ⟨(slotLive_iff full 0).mp (by decide +kernel), (profileLive_iff full 0).mp (by decide +kernel),
    (segmentLive_iff full 1).mp (by decide +kernel)⟩

/-! ### Witnesses: runs and records -/

theorem test_witness_nextJob :
    Met [⟨stocked, 0, .nextJob 0 16 0 none, fun _ => true⟩, ⟨stocked, 0, .nextJob 0 0 2 none, fun _ => true⟩,
      ⟨stocked, 0, .nextJob 0 0 1 (some 0), fun _ => true⟩, ⟨stocked, 0, .nextJob 0 0 0 (some 1), fun _ => true⟩,
      ⟨armedJob, 0, .nextJob 0 0 0 none, fun t => t.cc.armed.isSome⟩,
      ⟨switching, 0, .nextJob 0 0 0 none, fun t => t.cc.armed.isNone && t.cc.transition.isSome⟩,
      ⟨stocked, 0, .nextJob 0 15 0 none, fun t => t.cc.armed.isNone && t.cc.transition.isNone && t.recipe 15 == none⟩,
      ⟨stocked, 0, .nextJob 0 0 1 (some 65535), fun t => t.cc.armed.isNone && t.cc.transition.isNone && (t.recipe 0).isSome⟩,
      ⟨stocked, 0, .nextJob 0 255 0 none, fun t => t.cc.armed.isNone && t.cc.transition.isNone⟩] := met_of (by decide +kernel)

theorem test_witness_cancel_and_close :
    Met [⟨full, 0, .cancelJob 0, fun t => t.cc.armed.isNone⟩, ⟨armedJob, 0, .cancelJob 0, fun t => t.cc.armed.isSome⟩,
      ⟨full.setForce true, 0, .closeBatch 0, fun t => t.cu.forcePending⟩,
      ⟨boxed base 15, 2, .closeBatch 2, fun t => !t.cu.forcePending && t.bq.entries.length == 15⟩,
      ⟨boxed base 14, 2, .closeBatch 2, fun t => !t.cu.forcePending && t.bq.entries.length == 14⟩] := met_of (by decide +kernel)

/-- A job armed for a job mode, at the end of a cycle. -/
def dueJob (slot : Option SlotId) (mode : JobMode) : State :=
  let s := settledAt full 4095 false
  s.withCc { s.cc with armed := some ⟨slot, mode⟩, births := 3 }

/-- SwitchStartsTheArmedJob: both modes, a slot and NONE; the record at position 0 belongs to run 1, and in an empty ring there
is none. -/
theorem test_witness_switch (slot : Option SlotId) (mode : JobMode) :
    (dueJob slot mode).advances (.encoder riseA) ∧ (dueJob slot mode).config.good ∧ (dueJob slot mode).cc.armed = some ⟨slot, mode⟩
      ∧ (dueJob slot mode).bq.entries.length < 15 ∧ (dueJob slot mode).cc.births = 3
      ∧ (dueJob slot mode).recordAt 0 = some (aRecord 15 .open_ .undecided)
      ∧ ((dueJob slot mode).setRing []).recordAt 0 = none :=
  ⟨⟨⟨rfl, Nat.le_refl 33, false, false, ⟨rfl, rfl, rfl⟩, List.Mem.head _⟩, rfl, Nat.le_refl 4096⟩, rfl, rfl, Nat.zero_lt_succ 14, rfl, rfl,
    rfl⟩

theorem test_switch_runs :
    (let t := after (.switch (.encoder riseA)) (dueJob (some 0) (.afterBirths 2))
     t.cc.current == some ⟨2, 0⟩ && t.cc.transition == some ⟨1, 15⟩ && t.tl.nextRun == 3
      && ((t.recordAt 1).map Record.lastOfRun == some true) && ((t.recordAt 0).bind Record.run == some 2)
      && (after (.switch (.encoder riseA)) (dueJob none .immediate)).cc.current.isNone) = true := by decide +kernel

/-- No probe has a BLANK effect pending; 15 entries stop the switch. -/
theorem test_witness_no_switch (slot : Option SlotId) (mode : JobMode) :
    (boxed (dueJob slot mode) 15).advances (.encoder riseA) ∧ (boxed (dueJob slot mode) 15).bq.entries.length = 15
      ∧ (dueJob slot mode).cc.current = some ⟨1, 0⟩ ∧ ∀ i : Fin 6, ((dueJob slot mode).probe i).seenBad = false := by
  refine ⟨⟨⟨rfl, Nat.le_refl 33, false, false, ⟨rfl, rfl, rfl⟩, List.Mem.head _⟩, rfl, Nat.le_refl 4096⟩, rfl, rfl, ?_⟩
  show ∀ i : Fin 6, (full.probe i).seenBad = false
  decide +kernel

/-- Three births counted: AFTER BIRTHS 3 switches, AFTER BIRTHS 4 counts the fourth birth, and the full Box Queue defers. -/
theorem test_switch_births :
    (let run := fun s => after (.switch (.encoder riseA)) s
     let due := run (dueJob (some 0) (.afterBirths 3))
     let early := run (dueJob (some 0) (.afterBirths 4))
     let shut := run (boxed (dueJob (some 0) .immediate) 15)
     due.cc.current == some ⟨2, 0⟩ && early.cc.births == 4 && early.cc.lastCounted == some 16 && !early.cc.deferred
      && early.cc.armed.isSome && shut.cc.deferred && shut.cc.births == 4 && shut.cc.current == some ⟨1, 0⟩
      && (shut.port 0).queue.any fun r => r == ⟨1, .switchDeferred (some 0) .immediate 3 15⟩) = true := by decide +kernel

/-- RUN STARTED with the ending run, and at slot NONE; RUN ENDED before it where a clear has emptied the ring. -/
theorem test_switch_notices :
    (let run := fun s => after (.switch (.encoder riseA)) s
     let cleared := (dueJob (some 0) .immediate).setRing []
     sentTo full (run (dueJob (some 0) .immediate)) 0
        == [.lineState .crawl .stopped 0, .runStarted (some (⟨2, 0⟩, 7)) 16 (some ⟨1, 15⟩)]
      && sentTo full (run (dueJob none .immediate)) 0 == [.lineState .crawl .stopped 0, .runStarted none 16 (some ⟨1, 15⟩)]
      && sentTo full (run cleared) 0 == [.lineState .crawl .stopped 0, .runEnded { aRun with lastSeq := some 15 },
        .runStarted (some (⟨2, 0⟩, 7)) 16 none]
      && sentTo full (run cleared) 2 == [.runEnded { aRun with lastSeq := some 15 }]) = true := by decide +kernel

/-- With nothing armed: the newborn belongs to run 1, which goes on; with no run it is VOID. -/
theorem test_nothing_armed :
    (settledAt full 4095 false).advances (.encoder riseA) ∧ (settledAt full 4095 false).cc.armed = none
      ∧ (let t := after (.switch (.encoder riseA)) (settledAt full 4095 false)
         let u := after (.switch (.encoder riseA)) (settledAt base 4095 false)
         (t.recordAt 0).map (fun r => (r.seq, r.run, r.slot, r.void)) == some (16, some 1, some 0, false)
          && t.cc == full.cc && t.tl.nextRun == 2
          && (u.recordAt 0).map (fun r => (r.seq, r.run, r.slot, r.void)) == some (0, none, none, true)) = true :=
  ⟨⟨(settledAt_counts 4095 false).1, rfl, Nat.le_refl 4096⟩, rfl, by decide +kernel⟩

theorem test_witness_record_commands :
    Met [⟨full, 0, .splice 0 0, fun _ => true⟩, ⟨full, 0, .splice 0 65, fun _ => true⟩, ⟨full, 0, .splice 0 64, fun _ => true⟩,
      ⟨full, 1, .pullSample 1 0, fun _ => true⟩, ⟨full, 1, .pullSample 1 255, fun _ => true⟩,
      ⟨full, 1, .forceReject 1 16, fun t => t.resolve 16 == .newer⟩,
      ⟨full, 1, .forceReject 1 4294967295, fun t => t.resolve 0xFFFFFFFF#32 == .gone⟩,
      ⟨full, 1, .forceReject 1 4, fun t => t.resolve 4 == .found 11 (aRecord 4 .open_ .good)⟩,
      ⟨full, 1, .forceReject 1 5, fun t => t.resolve 5 == .found 10 (aRecord 5 .open_ .undecided)⟩] :=
  met_of (by decide +kernel)

/-- The line with one record at the decision position, with given defects and presence. -/
def deciding (defects : CodeSet) (void : Bool) (auto pulls : Nat) : State :=
  let s := full.withTl { full.tl with pulls := pulls, current := some { aRun with autoCount := auto } }
  s.modifyAt 11 fun r => { r with fate := .undecided, defects := defects, void := void }

/-- FateIsDecidedByTheFirstTest: every test at work; the auto-sample interval of the recipe is 2. -/
theorem test_fates :
    (let fate := fun s : State => (s.decideFate.recordAt 11).map Record.fate
     fate (deciding 0x0014#16 true 0 1) == some .reject && fate (deciding 0x0010#16 true 0 1) == some .void
      && fate (deciding 0x0010#16 false 0 1) == some .reject && fate (deciding 0 false 0 1) == some .sample
      && fate (deciding 0 false 1 0) == some .sample && fate (deciding 0 false 0 0) == some .good
      && full.decideFate == full) = true := by decide +kernel

/-- OffAngleEvaluatesOnce: a flag set and a flag clear; a record evaluated before; no record at the position. -/
def flagged (seen : Bool) (last : Option Word32) (kind : ProbeKind) : State :=
  full.setProbe 0 ⟨⟨true, 0, 100, 200, true, 1, kind⟩, seen, last, 1⟩

theorem test_off_angle :
    (let run := fun a b c => (flagged a b c).passOffAngle 0
     ((run true none .blank).recordAt 0).map Record.void == some true
      && ((run true (some 15) .blank).recordAt 0).map Record.void == some false
      && ((run false none .blank).recordAt 0).map Record.void == some false
      && ((run true none (.defect 9)).recordAt 0).map (fun r => hasCode r.defects 9) == some true
      && ((run true none .blank).recordAt 0).map (fun r => r.status[0]) == some .notRequired
      && (base.recordAt 0).isNone) = true := by decide +kernel

/-- OutputsArmAtStationLessOne: O0 enabled at station 1, fed by profile 0 with two segments. -/
def arming : State := full.setOutput 0 { full.output 0 with config := { (full.output 0).config with enable := true } }

theorem test_arming :
    (arming.armOutput 0).output 0 = { arming.output 0 with armed := [⟨15, 0, 100, 50, 0, 100, 150⟩, ⟨15, 1, 200, 60, 0, 200, 260⟩] }
      ∧ (arming.output 0).config.enable = true ∧ arming.recordAt 0 = some (aRecord 15 .open_ .undecided)
      ∧ arming.recipeOf (aRecord 15 .open_ .undecided) = some someRecipe ∧ someRecipe.outputMap[(0 : OutId)] = some 0
      ∧ someRecipe.outputMap[(1 : OutId)] = none ∧ (full.output 0).config.enable = false := by decide +kernel

theorem test_witness_trackClear :
    Met [⟨withLine full .run, 0, .trackClear 0, fun t => t.pu.lineState == .run⟩,
      ⟨(boxed full 16).withCu { counting.cu with forcePending := false }, 0, .trackClear 0,
        fun t => t.pu.lineState == .stopped && t.bq.entries.length == 16 && t.cu.batch.good != 0⟩,
      ⟨boxed full 16, 0, .trackClear 0, fun t => t.pu.lineState == .stopped && t.cu.batch.good == 0 && t.cu.batch.owner.isNone⟩,
      ⟨counting, 0, .trackClear 0, fun t => t.bq.entries.length == 0 && t.cu.batch.owner.isSome && t.cu.batch.good == 1⟩] :=
  met_of (by decide +kernel)

/-- The notices of a clear that closes the open batch as the twelfth entry and completes an ending run, and of one that discards
the batch. -/
theorem test_clear_notices :
    (let ending := fun s : State => s.withTl { s.tl with ending := some aRun }
     let entries := (boxed full 11).bq
     let s := ending (counting.withBq entries)
     let u := after (.trackClear 0) s
     let v := after (.trackClear 0) (ending full)
     sentTo s u 2 == [.batchClosed 4 .clear 1, .backlog 12 12 1, .runEnded aRun]
      && sentTo s u 0 == [.holdChanged true ⟨false, false, false⟩ (Vector.replicate 4 false) true, .runEnded aRun]
      && u.bq.standing && u.fh.hold && sentTo full v 2 == [.runEnded aRun] && sentTo full v 0 == [.runEnded aRun]
      && sentTo full (after (.trackClear 0) full) 2 == []) = true := by decide +kernel

/-- The state with REVERSE OVERRUN latched and HOLD active. -/
def faulted : State := full.withFh { full.fh with reverseOverrun := ⟨true, 255⟩, hold := true }

theorem test_witness_faultClear :
    Met [⟨full, 0, .faultClear 0, fun t => !t.fh.tracking⟩,
      ⟨faulted, 0, .faultClear 0, fun t => t.fh.tracking && t.fh.hold && decide ((t.port 0).queue.length < 32)⟩] :=
  met_of (by decide +kernel)

/-- The point IP1 of `pointed` with the record at a position in a status. -/
def judging (pos : Nat) (status : PointStatus) : State := (pointed full false 1).modifyAt pos fun r => r.setStatus 1 status

/-- VerdictIsJudgedByTheFirstRow: every row at the positions where the rows meet, I = 3 and D = 6. -/
theorem test_witness_verdict :
    Met [⟨judging 3 .open_, 1, .verdict 1 4 12 0 255 [], fun _ => true⟩, ⟨judging 3 .open_, 1, .verdict 1 1 12 0 128 [], fun _ => true⟩,
      ⟨judging 3 .open_, 1, .verdict 1 1 12 0 255 [0], fun _ => true⟩,
      ⟨judging 3 .open_, 1, .verdict 1 1 12 1 255 [16], fun _ => true⟩,
      ⟨full, 1, .verdict 1 0 12 0 255 [], fun t => (t.point 0).config.port != 1⟩,
      ⟨full.setPoint 0 ⟨⟨false, 3, 6, 1, .reject, none, 2⟩, false, 0⟩, 1, .verdict 1 0 12 0 255 [],
        fun t => (t.point 0).config.port == 1 && !(t.point 0).config.enable⟩,
      ⟨judging 3 .open_, 1, .verdict 1 1 16 0 255 [], fun t => t.resolve 16 == .newer⟩,
      ⟨judging 3 .open_, 1, .verdict 1 1 4294967295 0 255 [], fun t => t.resolve 0xFFFFFFFF#32 == .gone⟩,
      ⟨judging 2 .notRequired, 1, .verdict 1 1 13 0 255 [], fun t => (t.recordAt 2).map (fun r => r.status[1]) == some .notRequired⟩,
      ⟨judging 2 .open_, 1, .verdict 1 1 13 0 255 [], fun t => (t.recordAt 2).map (fun r => r.status[1]) == some .open_⟩,
      ⟨judging 6 .failed, 1, .verdict 1 1 9 0 255 [], fun t => (t.recordAt 6).map (fun r => r.status[1]) == some .failed⟩,
      ⟨judging 5 .timedOut, 1, .verdict 1 1 10 0 255 [], fun t => (t.recordAt 5).map (fun r => r.status[1]) == some .timedOut⟩,
      ⟨judging 6 .open_, 1, .verdict 1 1 9 0 255 [], fun t => (t.recordAt 6).map (fun r => r.status[1]) == some .open_⟩,
      ⟨judging 3 .open_, 1, .verdict 1 1 12 0 8 [], fun t => (t.recordAt 3).map (fun r => r.status[1]) == some .open_ && (t.group 0).config.noise == 8⟩,
      ⟨judging 3 .open_, 1, .verdict 1 1 12 0 9 [], fun t => (t.point 1).config.trim == some 0⟩,
      ⟨judging 3 .open_, 1, .verdict 1 1 12 0 127 [], fun t => (t.point 1).config.trim == some 0⟩,
      ⟨judging 5 .open_, 1, .verdict 1 1 10 1 255 [15], fun t => (t.recordAt 5).map (fun r => r.status[1]) == some .open_⟩] :=
  met_of (by decide +kernel)

/-- A forced close pending at the end of a cycle, with a GOOD record one upstream of the count position. -/
def closing (good : Bool) : State :=
  let s := (settledAt counting 4095 false).setForce true
  if good then s
  else (s.modifyAt 13 fun r => { r with fate := .reject }).withCu ⟨.opened 4, 4, true⟩

theorem test_witness_forcedClose (good : Bool) :
    (closing good).advances (.encoder riseA) ∧ (closing good).config.good ∧ (closing good).cu.forcePending = true
      ∧ (closing good).bq.entries.length < 15 ∧ ((closing good).cu.batch.owner = none ↔ (closing good).cu.batch.good = 0)
      ∧ ((closing good).recordAt ((closing good).config.count - 1)).map (fun r => (r.lastOfRun, r.run)) = some (false, some 1) := by
  cases good
  all_goals
    refine ⟨⟨⟨rfl, Nat.le_refl 33, false, false, ⟨rfl, rfl, rfl⟩, List.Mem.head _⟩, rfl, Nat.le_refl 4096⟩, rfl, rfl, ?_, ?_, ?_⟩
    all_goals decide +kernel

theorem test_forcedClose :
    (let t := after (.forcedClose (.encoder riseA)) (closing true)
     let u := after (.forcedClose (.encoder riseA)) (closing false)
     t.bq.entries.map BoxEntry.good == [2] && t.cu.batch.number == 5 && !t.cu.forcePending
      && (t.recordAt 14).map Record.closing == some true && u.bq.entries.isEmpty && u.cu.batch.number == 4
      && !u.cu.forcePending) = true := by decide +kernel

/-- A record at the count position with a fate, a run and last of run or not, before a count of good envelopes and entries. -/
def arrived (fate : Fate) (run : Option Word32) (last : Bool) (good entries : Nat) : State :=
  let s := (boxed full entries).withCu
    ⟨⟨4, if good = 0 then none else some ⟨1, 0, 7, 0, 0⟩, BitVec.ofNat 32 good, 0, 0, 0, false⟩, 4, false⟩
  s.modifyAt 14 fun r => { r with fate := fate, run := run, lastOfRun := last }

/-- The count arrival at the values where its clauses meet: the batch size 10 and the 15 entries; run NONE; RUN END first. -/
theorem test_count_arrivals :
    (let reasons := fun s : State => s.countArrival.bq.entries.map BoxEntry.reason
     let batch := fun s : State => s.countArrival.cu.batch
     reasons (arrived .good (some 1) false 9 0) == [.full] && reasons (arrived .good (some 1) false 8 0) == []
      && (batch (arrived .good (some 1) false 9 15)).overrun && (reasons (arrived .good (some 1) false 9 14)).length == 15
      && reasons (arrived .good (some 1) true 9 0) == [.runEnd] && reasons (arrived .reject (some 1) true 0 0) == []
      && (batch (arrived .reject (some 1) false 1 0)).reject == 1 && (batch (arrived .sample (some 1) false 1 0)).sample == 1
      && (batch (arrived .good (some 1) false 0 0)).owner == some ⟨1, 0, 7, 1, 1⟩
      && (arrived .void none false 5 0).countArrival == arrived .void none false 5 0
      && reasons ((arrived .void (some 1) false 5 0).setForce true) == [.forced]
      && (arrived .good (some 1) false 5 0).runRecordOf 1 == some aRun
      && (base.recordAt base.config.count).isNone) = true := by decide +kernel

/-- RUN ENDED at the completion of the ending run record, to LINE and PACK. -/
theorem test_run_ended :
    (let s := full.withTl { full.tl with ending := some aRun }
     s.completeEnding.tl.ending.isNone && full.tl.ending.isNone
      && ([0, 2] : List PortId).all fun p => (s.completeEnding.port p).queue == (s.port p).queue ++ [⟨0, .runEnded aRun⟩])
      = true := by decide +kernel

/-! ### Witnesses: firing -/

/-- EffectiveWidthStaysInLimits: widths at both limits. -/
theorem test_widths :
    effectiveWidth 100 128 0 99 = 1 ∧ widthClamped 100 128 0 99 = false ∧ effectiveWidth 100 128 0 100 = 1
      ∧ widthClamped 100 128 0 100 = true ∧ effectiveWidth 4095 128 0 0 = 4095 ∧ widthClamped 4095 128 0 0 = false
      ∧ effectiveWidth 4095 128 1 0 = 4095 ∧ widthClamped 4095 128 1 0 = true ∧ trimmedWidth 1 32 = 1
      ∧ advance 20000 2400 = 2048 ∧ (⟨0, 0, 4095, 4095, 0, 0, 0⟩ : Occurrence).theta ≤ 4095 := by decide +kernel

/-- JudgementFollowsGatingAndAngle: the occurrence of `test_arming` for O0 at, below and past its points. -/
def anOccurrence : Occurrence := ⟨15, 0, 100, 50, 1, 100, 150⟩

theorem test_judgements :
    (let j := fun s : State => fun x xEnd => s.judgement (s.output 0) anOccurrence x xEnd
     let shut := arming.modifyAt 0 fun r => { r with void := true }
     let runOnly := arming.setOutput 0 { arming.output 0 with config := { (arming.output 0).config with runOnly := true } }
     j arming 99 99 == .stays && j arming 100 100 == .fires && j arming 149 149 == .fires && j arming 150 150 == .expired
      && j arming 100 150 == .stays && j shut 100 100 == .heldBack && j runOnly 100 100 == .suppressed
      && j (withLine runOnly .run) 100 100 == .fires && anOccurrence.on < anOccurrence.expiry) = true := by decide +kernel

/-- What a judgement does on an output of class PRESENT with the omission code 9, on the record of seq 15. -/
theorem test_judgement_effects :
    (let c : OutputConfig := { (arming.output 0).config with gating := .present, omission := some 9 }
     let s := arming.setOutput 0 { arming.output 0 with config := c, pulses := [⟨15, 0, 150, 1⟩], armed := [{ anOccurrence with k := 2 }] }
     let left := fun t : State => (t.recordAt 0).map (fun r => hasCode r.defects 9)
     let rev := (withLine s .reverse).expireLate
     left (s.applyJudgement 0 anOccurrence .suppressed).1 == some true && left (s.applyJudgement 0 anOccurrence .expired).1 == some true
      && left (s.applyJudgement 0 anOccurrence .heldBack).1 == some false && left (s.forceOff 0) == some true
      && (((s.applyJudgement 0 anOccurrence .fires).1).output 0).pulses.length == 2
      && ((s.forceOff 0).output 0).pulses.isEmpty && (rev.output 0).armed.isEmpty && s.expireLate == s
      && left rev == some true && left ((withLine (s.modifyAt 0 fun r => { r with void := true }) .reverse).expireLate) == some false
      && ((s.setAngle 150).endPulses.output 0).pulses.isEmpty && ((s.setAngle 149).endPulses.output 0).pulses.length == 1
      && s.gateOpen .present 15 && !s.firesClamped (s.output 0) anOccurrence) = true := by decide +kernel

/-- The omissions of ended work: a pulse in progress on seq 15, an ARMED occurrence of seq 14 that passes the gating test, one of
seq 13 that does not. -/
theorem test_ended_work :
    (let c : OutputConfig := { (arming.output 0).config with gating := .present, omission := some 9 }
     let s := arming.setOutput 0 { arming.output 0 with
       config := c, pulses := [⟨15, 0, 150, 1⟩], armed := [{ anOccurrence with seq := 14 }, { anOccurrence with seq := 13 }] }
     let t := (s.modifyAt 2 fun r => { r with void := true }).endWork 0
     [0, 1, 2, 3].map (fun i => (t.recordAt i).map (fun r => hasCode r.defects 9)) == [some true, some true, some false, some false]
      && (t.output 0).armed.isEmpty && (t.output 0).pulses.isEmpty) = true := by decide +kernel

/-- The gating classes on records that pass them and records that do not. -/
theorem test_gating :
    (let r := aRecord 15 .open_ .good
     arming.gatePasses .always r && arming.gatePasses .present r && !arming.gatePasses .reject r
      && arming.gatePasses .reject { r with fate := .reject } && arming.gatePasses .sample { r with fate := .sample }
      && !arming.gatePasses .closing r && arming.gatePasses .closing { r with closing := true }
      && arming.recordOf 15 == some (aRecord 15 .open_ .undecided) && arming.recordOf 99 == none) = true := by decide +kernel

/-! ### Witnesses: the laws -/

theorem full_ring (i : Nat) (r : Record) (h : full.tl.ring[i]? = some r) :
    i < 16 ∧ r.seq = 15 - BitVec.ofNat 32 i ∧ r.run = some 1 ∧ r.slot = some 0 ∧ r.lastOfRun = false := by
  have key : ∀ i : Fin 16, full.tl.ring[i.val]? = some (aRecord (15 - i.val) .open_ (if 11 ≤ i.val then .good else .undecided))
      ∧ BitVec.ofNat 32 (15 - i.val) = 15 - BitVec.ofNat 32 i.val := by decide +kernel
  obtain ⟨hi, -⟩ := List.getElem?_eq_some_iff.mp h
  have hi : i < 16 := hi
  obtain ⟨k1, k2⟩ := key ⟨i, hi⟩
  obtain rfl := Option.some.inj (h.symm.trans k1)
  exact ⟨hi, k2, rfl, rfl, rfl⟩

/-- `full` has records on the line and nothing waiting: a step answers it a next state, and it meets every law. -/
theorem test_witness_step : ∃ t, step full = .next t := ⟨_, rfl⟩

theorem test_witness_ringLaw : full.ringLaw :=
  ⟨rfl, Nat.le_refl 16, fun _ => rfl, fun i r h => (full_ring i r h).2.1⟩

theorem test_witness_runLaw : full.runLaw :=
  ⟨rfl, rfl, fun r h => (full_ring 0 r (by rw [← List.head?_eq_getElem?]; exact h)).2.2.1⟩

theorem test_witness_boxLaw : full.boxLaw := by
  refine ⟨Nat.zero_le _, fun i e h => ?_, rfl, ?_, fun i j r q _ _ hr _ hl => ?_, fun i r _ hr hl => ?_⟩
  · cases h
  · intro h
    cases h
  · rw [(full_ring i r hr).2.2.2.2] at hl
    cases hl
  · rw [(full_ring i r hr).2.2.2.2] at hl
    cases hl

theorem test_witness_holdLaw : full.holdLaw := ⟨rfl, by decide +kernel, rfl, by decide +kernel⟩

theorem test_witness_liveLaw : full.liveLaw := by
  refine ⟨fun c h => ?_, fun j h => ?_, fun r h j hj => ?_⟩
  · obtain rfl := Option.some.inj h
    decide +kernel
  · cases h
  · obtain ⟨i, hi⟩ := List.getElem?_of_mem h
    rw [(full_ring i r hi).2.2.2.1] at hj
    obtain rfl := Option.some.inj hj
    decide +kernel

theorem test_witness_positionLaw : full.positionLaw := ⟨rfl, by decide +kernel⟩

theorem test_witness_faultLaw : full.faultLaw := fun f => by cases f <;> exact rfl

theorem test_witness_noticeLaw : full.noticeLaw := by
  unfold State.noticeLaw
  decide +kernel

/-- R186: a queue of 31 takes the notice, and a queue of 32 loses it and sets the overflow flag. -/
theorem test_notice_queue_limit :
    (let holding := fun n => base.setPort 0 { base.port 0 with queue := List.replicate n ⟨0, .overspeed 1 .forward⟩ }
     let sent := fun n => ((holding n).notify (fun _ r => r == .line) (.overspeed 2 .reverse)).port 0
     (sent 31).queue.length == 32 && !(sent 31).overflow && (sent 32).queue == ((holding 32).port 0).queue && (sent 32).overflow)
      = true := by decide +kernel

theorem test_witness_trimLaw : full.trimLaw := by
  unfold State.trimLaw
  decide +kernel

theorem test_witness_storeLaw : stocked.storeLaw := by
  unfold State.storeLaw
  decide +kernel

theorem test_witness_firingLaw : base.firingLaw := by
  have h : ∀ o : OutId, base.output o = .powerOn := by decide +kernel
  intro o
  rw [h o]
  exact ⟨Nat.zero_le _, Nat.zero_le _, fun _ => ⟨rfl, rfl, rfl, rfl, rfl, rfl⟩, fun q hq => by cases hq⟩

theorem test_witness_switch_laws (slot : Option SlotId) (mode : JobMode) :
    (dueJob slot mode).runLaw ∧ (dueJob slot mode).boxLaw := by
  refine ⟨⟨rfl, rfl, fun r h => (full_ring 0 r (by rw [← List.head?_eq_getElem?]; exact h)).2.2.1⟩, Nat.zero_le _,
    fun i e h => ?_, rfl, ?_, fun i j r q _ _ hr _ hl => ?_, fun i r _ hr hl => ?_⟩
  · cases h
  · intro h
    cases h
  · rw [(full_ring i r hr).2.2.2.2] at hl
    cases hl
  · rw [(full_ring i r hr).2.2.2.2] at hl
    cases hl

theorem test_witness_forcedClose_ring : (closing true).ringLaw :=
  ⟨rfl, Nat.le_refl 16, fun _ => rfl, fun i r h => (full_ring i r h).2.1⟩

/-- NewbornTakesItsMarks: SPLICE, RAMP below the recipe's least speed, DISTURBED with a fault latched; VOID with no run; a
required point that is disabled. -/
theorem test_newborn :
    (let r := (faulted.withTl { faulted.tl with splice := 1 }).birth.recordAt 0
     r.map (fun r => (r.seq, r.void, r.defects, r.status[1])) == some (16, false, 0x0017#16, .timedOut)
      && ((pointed full false 0).birth.recordAt 0).map (fun r => (r.status[0], r.status[1])) == some (.timedOut, .open_)
      && (base.birth.recordAt 0).map Record.void == some true) = true := by decide +kernel

/-! ### Resets and the queue -/

/-- The four pairs of straps, and a transfer held over the reset. -/
theorem test_reset_straps :
    (base.port 0).role = .line ∧ (base.port 1).role = .inspect ∧ (base.port 2).role = .pack ∧ (base.port 3).role = .service
      ∧ ((after (.resetPin ⟨⟨false, false, true⟩, ⟨false, true, false⟩, ⟨true, false, false⟩, ⟨true, true, false⟩⟩) full).port 0)
        = ⟨.line, .idle, false, false, [⟨0, .restart .resetPin .line⟩], true, []⟩ := by decide +kernel

/-- The first command of the queue runs, the second waits. -/
theorem test_step_queue :
    (match step (base.withPending [.drive 0 100 50, .readStatus 3]) with
      | .next t => t.pending
      | _ => []) = [.readStatus 3] := by decide +kernel

end Sys2Proof.Tests
end

section
/-! PROOFS. The law of trim (R92): which commands reach the Trim Regulator, what each of them does to a group, and why T stays
within Tmin to Tmax. -/

namespace Sys2Proof.Machine.TrimRegulation

variable (s : State)

/-! ### Lawful groups (R92) -/

/-- R92 for one group. -/
def Lawful (u : TrimGroup) : Prop :=
  32 ≤ u.config.tmin ∧ u.config.tmin ≤ u.t ∧ u.t ≤ u.config.tmax ∧ u.config.tmax ≤ 255

/-- The law of the regulator is the law of its groups. -/
theorem trimLaw_iff : s.trimLaw ↔ ∀ g : Fin 3, Lawful s.tr.groups[g] := Iff.rfl

theorem lawful_powerOn : Lawful .powerOn := by
  unfold Lawful
  decide

theorem lawful_congr {u v : TrimGroup} (hc : v.config = u.config) (ht : v.t = u.t) (hu : Lawful u) : Lawful v := by
  unfold Lawful
  rw [hc, ht]
  exact hu

theorem clampT_mem (c : TrimConfig) (v : Int) (h : c.tmin ≤ c.tmax) : c.tmin ≤ c.clampT v ∧ c.clampT v ≤ c.tmax := by
  unfold TrimConfig.clampT clampInt
  omega

/-- A group whose T has just been clamped is lawful when its range is. -/
theorem lawful_of_clamped {u : TrimGroup} (v : Int) (ht : u.t = u.config.clampT v) (hlo : 32 ≤ u.config.tmin)
    (hle : u.config.tmin ≤ u.config.tmax) (hhi : u.config.tmax ≤ 255) : Lawful u := by
  obtain ⟨h1, h2⟩ := clampT_mem u.config v hle
  exact ⟨hlo, ht ▸ h1, ht ▸ h2, hhi⟩

/-- Clamping T into a lawful group's own range keeps the law. -/
theorem Lawful.clamped {u w : TrimGroup} (hu : Lawful u) (v : Int) (hc : w.config = u.config)
    (ht : w.t = u.config.clampT v) : Lawful w := by
  obtain ⟨hlo, h1, h2, hhi⟩ := hu
  rw [← hc] at ht hlo h1 h2 hhi
  exact lawful_of_clamped v ht hlo (Nat.le_trans h1 h2) hhi

/-- R97: a request counts and moves no T. -/
theorem Lawful.countRequest {u : TrimGroup} (hu : Lawful u) (d : StepDir) : Lawful (u.countRequest d) := by
  unfold TrimGroup.countRequest
  split
  · exact lawful_congr rfl rfl hu
  · exact lawful_congr rfl rfl hu

/-- R100: a step clamps T. -/
theorem Lawful.stepped {u : TrimGroup} (hu : Lawful u) (d : StepDir) (pitch : Word32) : Lawful (u.stepped d pitch) :=
  hu.clamped (u.rawStep d) rfl rfl

/-- R102: a configuration that is in range carries a lawful range of T. -/
theorem ofFields_range {f : TrimFields} {g : Fin 3} {c : TrimConfig} (h : TrimConfig.ofFields f = some (g, c)) :
    32 ≤ c.tmin ∧ c.tmin ≤ c.tmax ∧ c.tmax ≤ 255 := by
  unfold TrimConfig.ofFields at h
  split at h
  · split at h
    · rename_i hr
      obtain ⟨hlo, hle, hhi, _⟩ := hr
      cases h
      exact ⟨hlo, hle, hhi⟩
    · cases h
  · cases h

/-! ### One group of the regulator -/

/-- What an operation on group `g` does to the Trim Regulator: the other groups stay, and the group stays lawful. -/
structure Within (g : Fin 3) (v w : TR) : Prop where
  others : ∀ h : Fin 3, h ≠ g → w.groups[h] = v.groups[h]
  lawful : Lawful v.groups[g] → Lawful w.groups[g]

theorem Within.refl (g : Fin 3) (v : TR) : Within g v v := ⟨fun _ _ => rfl, id⟩

theorem Within.trans {g : Fin 3} {u v w : TR} (h : Within g u v) (k : Within g v w) : Within g u w :=
  ⟨fun i hi => (k.others i hi).trans (h.others i hi), k.lawful ∘ h.lawful⟩

/-- The regulator changes in one group at most, and lawfully. -/
def TouchesOne (v w : TR) : Prop := ∃ g, Within g v w

theorem TouchesOne.refl (v : TR) : TouchesOne v v := ⟨0, .refl 0 v⟩

/-- A command that reaches one group at most keeps all three lawful. -/
theorem TouchesOne.keeps_law {v w : TR} (h : TouchesOne v w) (hv : ∀ g : Fin 3, Lawful v.groups[g]) (g : Fin 3) :
    Lawful w.groups[g] := by
  obtain ⟨i, hi⟩ := h
  by_cases e : g = i
  · subst e
    exact hi.lawful (hv g)
  · rw [hi.others g e]
    exact hv g

theorem group_setGroup_self (g : Fin 3) (u : TrimGroup) : (s.setGroup g u).group g = u := by
  simp [State.group, State.setGroup]

theorem group_setGroup_ne {g h : Fin 3} (u : TrimGroup) (hne : h ≠ g) : (s.setGroup g u).group h = s.group h := by
  have : g.val ≠ h.val := fun e => hne (Fin.ext e.symm)
  simp [State.group, State.setGroup, this]

theorem setGroup_within (g : Fin 3) (u : TrimGroup) (hu : Lawful (s.group g) → Lawful u) :
    Within g s.tr (s.setGroup g u).tr where
  others _ hne := group_setGroup_ne s u hne
  lawful hg := by
    have e : (s.setGroup g u).tr.groups[g] = u := group_setGroup_self s g u
    rw [e]
    exact hu hg

/-! ### The operations of the Trim Regulator -/

/-- Handing a changed T to the Firing Unit changes no group. -/
theorem takeTrim_tr (g : Fin 3) : (s.takeTrim g).tr = s.tr := (takeTrim_frame s g).tr

/-- R100: of the regulator a step changes its group alone; its notice and the recomputation lie outside. -/
theorem stepTrim_tr (i : Fin 3) (d : StepDir) (m : Nat) :
    (s.stepTrim i d m).tr = (s.setGroup i ((s.group i).stepped d s.pu.pitch)).tr := by
  unfold State.stepTrim
  dsimp only
  split
  · split <;> rfl
  · rw [takeTrim_tr]
    split <;> rfl

theorem stepTrim_within (i : Fin 3) (d : StepDir) (m : Nat) : Within i s.tr (s.stepTrim i d m).tr := by
  rw [stepTrim_tr]
  exact setGroup_within s i _ fun hg => hg.stepped d s.pu.pitch

/-- R97 to R100: a request is counted, and a step may follow. -/
theorem requestTrim_within (i : Fin 3) (d : StepDir) (m : Nat) : Within i s.tr (s.requestTrim i d m).tr := by
  have hcount := setGroup_within s i ((s.group i).countRequest d) fun hg => hg.countRequest d
  unfold State.requestTrim
  dsimp only
  split
  · exact hcount.trans (stepTrim_within _ i d m)
  · exact hcount

/-- R93 to R97: a measurement reaches the group that it is handed to. -/
theorem measure_within (i : Fin 3) (seq : Word32) (m : Nat) : Within i s.tr (s.measure i seq m).tr := by
  unfold State.measure
  cases (s.group i).config.classify m with
  | absent => exact .refl i s.tr
  | thin =>
    dsimp only
    split
    · exact requestTrim_within s i .up m
    · exact .refl i s.tr
  | inBand =>
    dsimp only
    split
    · exact setGroup_within s i _ (lawful_congr rfl rfl)
    · exact .refl i s.tr
  | heavy =>
    dsimp only
    split
    · exact requestTrim_within s i .down m
    · exact .refl i s.tr

/-- R103: T is clamped into the range of the new configuration. -/
theorem installTrim_within (i : Fin 3) (c : TrimConfig) (hlo : 32 ≤ c.tmin) (hle : c.tmin ≤ c.tmax) (hhi : c.tmax ≤ 255) :
    Within i s.tr (s.installTrim i c).tr := by
  have hset := setGroup_within s i
    { s.group i with config := c, t := c.clampT (s.group i).t, request := none, count := 0 }
    fun _ => lawful_of_clamped (s.group i).t rfl hlo hle hhi
  unfold State.installTrim
  dsimp only
  split
  · exact hset
  · rw [takeTrim_tr]
    exact hset

/-- R104: the value of SET TRIM is clamped into the group's range. -/
theorem assignTrim_within (i : Fin 3) (value : Nat) : Within i s.tr (s.assignTrim i value).tr := by
  have hset := setGroup_within s i
    { s.group i with
      t := (s.group i).config.clampT value, lastStep := none, request := none, count := 0, lastPitch := s.pu.pitch }
    fun hg => hg.clamped value rfl rfl
  unfold State.assignTrim
  dsimp only
  split
  · exact hset
  · rw [takeTrim_tr]
    exact hset

/-! ### The owners that reach the regulator -/

/-- R115: the measurement of an accepted verdict goes to the group that its point feeds, if it feeds one. -/
theorem handMeasurement_touches (v : VerdictFields) : TouchesOne s.tr (s.handMeasurement v).tr := by
  unfold State.handMeasurement
  split
  · exact ⟨_, measure_within s _ _ _⟩
  · exact .refl s.tr

theorem acceptVerdict_touches (v : VerdictFields) (pos : Nat) : TouchesOne s.tr (s.acceptVerdict v pos).tr :=
  handMeasurement_touches (s.modifyAt pos fun r => r.judged v) v

theorem ownVerdict_touches (p : PortId) (point seq result m : Nat) (codes : List Nat) :
    TouchesOne s.tr (ownVerdict p point seq result m codes s).1.tr := by
  unfold ownVerdict
  cases verdictOf point seq result m codes with
  | none => exact .refl s.tr
  | some v =>
    dsimp only
    split
    · exact .refl s.tr
    · split
      · exact .refl s.tr
      · cases s.resolve v.seq with
        | newer => exact .refl s.tr
        | gone => exact .refl s.tr
        | found pos r =>
          dsimp only
          split
          · exact .refl s.tr
          · exact acceptVerdict_touches s v pos

theorem ownTrimConfig_touches (f : TrimFields) : TouchesOne s.tr (ownTrimConfig f s).1.tr := by
  unfold ownTrimConfig
  cases hf : TrimConfig.ofFields f with
  | none => exact .refl s.tr
  | some gc =>
    obtain ⟨g, c⟩ := gc
    obtain ⟨hlo, hle, hhi⟩ := ofFields_range hf
    dsimp only
    split
    · exact .refl s.tr
    · exact ⟨g, installTrim_within s g c hlo hle hhi⟩

theorem ownSetTrim_touches (group value : Nat) : TouchesOne s.tr (ownSetTrim group value s).1.tr := by
  unfold ownSetTrim
  cases finOf 3 group with
  | none => exact .refl s.tr
  | some g =>
    dsimp only
    split
    · exact .refl s.tr
    · exact ⟨g, assignTrim_within s g value⟩

/-! ### The owners that do not -/

/-- An owner that leaves the Trim Regulator as it stands. -/
def LeavesTrim (own : Owner) : Prop := ∀ s : State, (own s).1.tr = s.tr

theorem ownReadConfig_leaves (part : Nat) : LeavesTrim (ownReadConfig part) := fun s => by
  unfold ownReadConfig
  split <;> rfl

theorem ownReadRecord_leaves (keyBy key : Nat) : LeavesTrim (ownReadRecord keyBy key) := fun s => by
  unfold ownReadRecord
  split <;> rfl

theorem ownBoxPeek_leaves : LeavesTrim ownBoxPeek := fun s => by
  unfold ownBoxPeek
  split <;> rfl

/-- R23: LINE CONFIG hands a new speed to the Firing Unit and compares the backlog. -/
theorem installConfig_tr (c : LineConfig) : (s.installConfig c).tr = s.tr := by
  unfold State.installConfig
  dsimp only
  split
  · rfl
  · rw [(testBacklog_keeps _).tr]
    split
    · exact (takeSpeed_keeps _).tr
    · rfl

theorem ownLineConfig_leaves (f : LineFields) : LeavesTrim (ownLineConfig f) := fun s => by
  unfold ownLineConfig
  split
  · rfl
  · split
    · rfl
    · split
      · rfl
      · split
        · rfl
        · exact installConfig_tr s _

theorem ownSource_leaves (source : Nat) : LeavesTrim (ownSource source) := fun s => by
  unfold ownSource
  split
  · rfl
  · split
    · rfl
    · split
      · rfl
      · dsimp only
        exact (takeSpeed_keeps _).tr.trans (withPu_tr s _)

theorem ownDrive_leaves (target ramp : Nat) : LeavesTrim (ownDrive target ramp) := fun s => by
  unfold ownDrive
  split
  · rfl
  · split <;> rfl

theorem ownProbeConfig_leaves (f : ProbeFields) : LeavesTrim (ownProbeConfig f) := fun s => by
  unfold ownProbeConfig
  split <;> rfl

/-- R87: the ended work, the new configuration and its recomputation are the Firing Unit's. -/
theorem installOutput_tr (o : OutId) (c : OutputConfig) : (s.installOutput o c).tr = s.tr :=
  (recomputeOutput_frame _ o).tr.trans (endWork_frame s o).tr

theorem ownOutputConfig_leaves (f : OutputFields) : LeavesTrim (ownOutputConfig f) := fun s => by
  unfold ownOutputConfig
  split
  · rfl
  · split
    · rfl
    · split
      · rfl
      · split
        · rfl
        · exact installOutput_tr s _ _

theorem ownPointConfig_leaves (f : PointFields) : LeavesTrim (ownPointConfig f) := fun s => by
  unfold ownPointConfig
  split
  · rfl
  · split
    · rfl
    · split
      · rfl
      · split
        · rfl
        · exact (setOffline_keeps _ _ _).tr

theorem ownTestPulse_leaves (output duration : Nat) : LeavesTrim (ownTestPulse output duration) := fun s => by
  unfold ownTestPulse
  split
  · rfl
  · split
    · rfl
    · split
      · rfl
      · split
        · rfl
        · split <;> rfl

theorem ownPutSegments_leaves (first count : Nat) (segs : List (Nat × Nat)) :
    LeavesTrim (ownPutSegments first count segs) := fun s => by
  unfold ownPutSegments State.putSegments
  dsimp only
  split
  · split
    · rfl
    · split <;> rfl
  · rfl

theorem ownPutProfile_leaves (profile first count : Nat) (tag : Option (Vector Byte 8)) :
    LeavesTrim (ownPutProfile profile first count tag) := fun s => by
  unfold ownPutProfile State.putProfile
  split
  · split
    · split
      · rfl
      · split <;> rfl
    · rfl
  · rfl

theorem ownPutRecipe_leaves (slot content : Nat) (recipe : Option RecipeFields) :
    LeavesTrim (ownPutRecipe slot content recipe) := fun s => by
  unfold ownPutRecipe State.putRecipe
  split
  · split
    · rfl
    · split
      · rfl
      · split <;> rfl
  · rfl

theorem ownNextJob_leaves (slot mode : Nat) (n : Option Nat) : LeavesTrim (ownNextJob slot mode n) := fun s => by
  unfold ownNextJob
  split
  · split
    · rfl
    · split
      · rfl
      · split <;> rfl
  · rfl

theorem ownCancelJob_leaves : LeavesTrim ownCancelJob := fun s => by
  unfold ownCancelJob
  split <;> rfl

theorem ownSplice_leaves (n : Nat) : LeavesTrim (ownSplice n) := fun s => by
  unfold ownSplice
  split <;> rfl

/-- R64, R65, R142: what TRACK CLEAR ends is counted, tracked and fired; T stays. -/
theorem trackCleared_tr : s.trackCleared.tr = s.tr :=
  (clearBatch_keeps s).tr ▸ (completeEnding_keeps s.clearBatch).tr

theorem ownTrackClear_leaves : LeavesTrim ownTrackClear := fun s => by
  unfold ownTrackClear
  split
  · rfl
  · split
    · rfl
    · exact trackCleared_tr s

theorem ownFaultClear_leaves : LeavesTrim ownFaultClear := fun s => by
  unfold ownFaultClear State.clearFaults
  split
  · exact (refreshHold_keeps _).tr
  · rfl

theorem ownForceReject_leaves (seq : Nat) : LeavesTrim (ownForceReject seq) := fun s => by
  unfold ownForceReject
  split
  · rfl
  · rfl
  · split <;> rfl

theorem ownPullSample_leaves (n : Nat) : LeavesTrim (ownPullSample n) := fun s => by
  unfold ownPullSample
  split <;> rfl

theorem ownPointResume_leaves (p : PortId) (point : Nat) : LeavesTrim (ownPointResume p point) := fun s => by
  unfold ownPointResume
  split
  · rfl
  · dsimp only
    split
    · rfl
    · split
      · rfl
      · split
        · rfl
        · exact (setOffline_keeps _ _ _).tr

theorem ownBoxTake_leaves : LeavesTrim ownBoxTake := fun s => by
  unfold ownBoxTake
  split
  · exact (testBacklog_keeps _).tr
  · rfl

theorem ownCloseBatch_leaves : LeavesTrim ownCloseBatch := fun s => by
  unfold ownCloseBatch
  split
  · rfl
  · split <;> rfl

/-! ### Commands at a port -/

/-- Whatever its port's state, a command does to the Trim Regulator what its owner does, or nothing. -/
theorem takeCommand_rel {rel : TR → TR → Prop} (hrefl : ∀ v, rel v v) {own : Owner}
    (hown : ∀ s : State, rel s.tr (own s).1.tr) (p : PortId) (c : Instr) : rel s.tr (s.takeCommand p c own).tr := by
  obtain ⟨q, h⟩ | ⟨q, h⟩ := takeCommand_cases s p c own
  · rw [h]
    exact hrefl s.tr
  · rw [h]
    exact hown (s.setPort p q)

theorem takeCommand_leaves {own : Owner} (hown : LeavesTrim own) (p : PortId) (c : Instr) :
    (s.takeCommand p c own).tr = s.tr :=
  takeCommand_rel s (rel := fun v w => w = v) (fun _ => rfl) hown p c

theorem takeCommand_touches {own : Owner} (hown : ∀ s : State, TouchesOne s.tr (own s).1.tr) (p : PortId) (c : Instr) :
    TouchesOne s.tr (s.takeCommand p c own).tr :=
  takeCommand_rel s .refl hown p c

/-! ### Every command -/

/-- POWER_ON and RESET_PIN alone are resets. -/
def NoReset (c : Instr) : Prop := ∀ pins, c ≠ .powerOn pins ∧ c ≠ .resetPin pins

/-- The commands of R92 that are not resets. -/
inductive ReachesTrim : Instr → Prop where
  | verdict (p : PortId) (point seq result m : Nat) (codes : List Nat) : ReachesTrim (.verdict p point seq result m codes)
  | trimConfig (p : PortId) (f : TrimFields) : ReachesTrim (.trimConfig p f)
  | setTrim (p : PortId) (group value : Nat) : ReachesTrim (.setTrim p group value)

variable {s} {c : Instr} {t : State}

theorem tr_of_next {u : State} (h : (.next u : Host.Outcome State Fault Refusal) = .next t) (hu : u.tr = s.tr) :
    t.tr = s.tr := by
  cases h
  exact hu

/-- R92: nothing but a VERDICT, a TRIM CONFIG, a SET TRIM and a reset changes the Trim Regulator. -/
theorem exec_tr (h : exec c s = .next t) (hr : NoReset c) (hc : ¬ ReachesTrim c) : t.tr = s.tr := by
  cases c with
  | powerOn pins => exact absurd rfl (hr pins).1
  | resetPin pins => exact absurd rfl (hr pins).2
  | verdict p point seq result m codes => exact absurd (.verdict ..) hc
  | trimConfig p f => exact absurd (.trimConfig ..) hc
  | setTrim p group value => exact absurd (.setTrim ..) hc
  | encoderCount run => exact tr_of_next h (encoderRun_keeps s run).tr
  | quadratureError run => exact tr_of_next h (encoderRun_keeps s run).tr
  | indexEdge run => exact tr_of_next h (encoderRun_keeps s run).tr
  | acceptedLevelChange run => exact tr_of_next h (encoderRun_keeps s run).tr
  | internalAddition => exact tr_of_next h (addition_keeps s).tr
  | speedGate => exact tr_of_next h (gate_keeps s).tr
  | quietGateStop => exact tr_of_next h (gate_keeps s).tr
  | probeSample levels => exact tr_of_next h (sampleProbes_keeps s levels).tr
  | switch via => exact tr_of_next h (stimulate_keeps s via).tr
  | forcedClose via => exact tr_of_next h (stimulate_keeps s via).tr
  | testPulseEnd o => exact tr_of_next h (elapse_keeps s _).tr
  | frameReceived p bytes => exact tr_of_next h rfl
  | overlapTransfer p bytes => exact tr_of_next h rfl
  | responseMade made => exact tr_of_next h rfl
  | responseRead p bytes => exact tr_of_next h rfl
  | readStatus p => exact tr_of_next h (takeCommand_leaves s (fun _ => rfl) _ _)
  | readConfig p part => exact tr_of_next h (takeCommand_leaves s (ownReadConfig_leaves part) _ _)
  | readRecord p keyBy key => exact tr_of_next h (takeCommand_leaves s (ownReadRecord_leaves keyBy key) _ _)
  | readSegments p first count => exact tr_of_next h (takeCommand_leaves s (fun _ => rfl) _ _)
  | readProfile p profile => exact tr_of_next h (takeCommand_leaves s (fun _ => rfl) _ _)
  | readRecipe p slot => exact tr_of_next h (takeCommand_leaves s (fun _ => rfl) _ _)
  | readBatch p => exact tr_of_next h (takeCommand_leaves s (fun _ => rfl) _ _)
  | boxPeek p => exact tr_of_next h (takeCommand_leaves s ownBoxPeek_leaves _ _)
  | noticeTake p => exact tr_of_next h (takeCommand_leaves s (fun _ => rfl) _ _)
  | lineConfig p f => exact tr_of_next h (takeCommand_leaves s (ownLineConfig_leaves f) _ _)
  | source p src => exact tr_of_next h (takeCommand_leaves s (ownSource_leaves src) _ _)
  | drive p target ramp => exact tr_of_next h (takeCommand_leaves s (ownDrive_leaves target ramp) _ _)
  | probeConfig p f => exact tr_of_next h (takeCommand_leaves s (ownProbeConfig_leaves f) _ _)
  | outputConfig p f => exact tr_of_next h (takeCommand_leaves s (ownOutputConfig_leaves f) _ _)
  | pointConfig p f => exact tr_of_next h (takeCommand_leaves s (ownPointConfig_leaves f) _ _)
  | putSegments p first count segs => exact tr_of_next h (takeCommand_leaves s (ownPutSegments_leaves first count segs) _ _)
  | putProfile p profile first count tag =>
    exact tr_of_next h (takeCommand_leaves s (ownPutProfile_leaves profile first count tag) _ _)
  | putRecipe p slot content recipe =>
    exact tr_of_next h (takeCommand_leaves s (ownPutRecipe_leaves slot content recipe) _ _)
  | nextJob p slot mode n => exact tr_of_next h (takeCommand_leaves s (ownNextJob_leaves slot mode n) _ _)
  | cancelJob p => exact tr_of_next h (takeCommand_leaves s ownCancelJob_leaves _ _)
  | splice p n => exact tr_of_next h (takeCommand_leaves s (ownSplice_leaves n) _ _)
  | trackClear p => exact tr_of_next h (takeCommand_leaves s ownTrackClear_leaves _ _)
  | faultClear p => exact tr_of_next h (takeCommand_leaves s ownFaultClear_leaves _ _)
  | forceReject p seq => exact tr_of_next h (takeCommand_leaves s (ownForceReject_leaves seq) _ _)
  | pullSample p n => exact tr_of_next h (takeCommand_leaves s (ownPullSample_leaves n) _ _)
  | pointResume p point => exact tr_of_next h (takeCommand_leaves s (ownPointResume_leaves p point) _ _)
  | testPulse p output duration => exact tr_of_next h (takeCommand_leaves s (ownTestPulse_leaves output duration) _ _)
  | boxTake p => exact tr_of_next h (takeCommand_leaves s ownBoxTake_leaves _ _)
  | closeBatch p => exact tr_of_next h (takeCommand_leaves s ownCloseBatch_leaves _ _)

/-- The commands of R92 that are not resets reach one group at most. -/
theorem ReachesTrim.touches (hc : ReachesTrim c) (h : exec c s = .next t) : TouchesOne s.tr t.tr := by
  cases hc with
  | verdict p point seq result m codes =>
    cases h
    exact takeCommand_touches s (fun u => ownVerdict_touches u p point seq result m codes) _ _
  | trimConfig p f =>
    cases h
    exact takeCommand_touches s (fun u => ownTrimConfig_touches u f) _ _
  | setTrim p group value =>
    cases h
    exact takeCommand_touches s (fun u => ownSetTrim_touches u group value) _ _

theorem exec_touchesOne (h : exec c s = .next t) (hr : NoReset c) : TouchesOne s.tr t.tr := by
  by_cases hc : ReachesTrim c
  · exact hc.touches h
  · rw [exec_tr h hr hc]
    exact .refl s.tr

/-! ### The law -/

/-- R91: after a reset every group has its power-on values. -/
theorem afterReset_trimLaw (cause : ResetCause) (pins : ResetPins) (fresh : Nat) (pending : List Instr) :
    (State.afterReset cause pins fresh pending).trimLaw := by
  intro g
  have hg : (State.afterReset cause pins fresh pending).group g = .powerOn := by
    simp [State.afterReset, State.group, TR.powerOn]
  rw [hg]
  exact lawful_powerOn

theorem exec_keeps_trimLaw (hs : s.trimLaw) (h : exec c s = .next t) : t.trimLaw := by
  by_cases hr : NoReset c
  · exact (exec_touchesOne h hr).keeps_law hs
  · have hreset : ∃ pins, c = .powerOn pins ∨ c = .resetPin pins := by
      simpa only [NoReset, Classical.not_forall, Classical.not_and_iff_not_or_not, Classical.not_not] using hr
    obtain ⟨pins, rfl | rfl⟩ := hreset
    · cases h
      exact afterReset_trimLaw _ _ _ _
    · cases h
      exact afterReset_trimLaw _ _ _ _

theorem tick_tr : s.tick.tr = s.tr := (elapse_keeps s 1).tr

theorem step_keeps_trimLaw (hs : s.trimLaw) (h : step s = .next t) : t.trimLaw := by
  unfold step at h
  split at h
  · rename_i rest _
    exact exec_keeps_trimLaw (s := s.withPending rest) hs h
  · cases h
    rw [trimLaw_iff, tick_tr]
    exact hs

/-- Settles O57: the law goes through the group that a command reaches (`Within`), and T leaves every step, TRIM CONFIG and SET
TRIM clamped. -/
theorem trimLawIsKept : Obligations.TrimLawIsKept := by
  unfold Obligations.TrimLawIsKept
  refine ⟨fun s t hs h => step_keeps_trimLaw hs h, fun s hs g => ?_, fun c s t h hr => ⟨?_, fun hv hc hset => ?_⟩⟩
  · obtain ⟨hlo, hmin, hmax, hhi⟩ := hs g
    exact ⟨hmin, hmax, Nat.le_trans hlo hmin, Nat.le_trans hmax hhi⟩
  · obtain ⟨g, hg⟩ := exec_touchesOne h hr
    exact ⟨g, hg.others⟩
  · refine exec_tr h hr fun hreach => ?_
    cases hreach with
    | verdict p point seq result m codes => exact hv p point seq result m codes rfl
    | trimConfig p f => exact hc p f rfl
    | setTrim p group value => exact hset p group value rfl

end Sys2Proof.Machine.TrimRegulation
end

section
/-! PROOFS. Inspection points (06): the fields of POINT CONFIG and VERDICT as their owners read them, what the withdrawal of a
hold cause does, and POINT CONFIG and POINT RESUME in the order of their answers (R108, R109, R123). -/

namespace Sys2Proof.Machine.InspectionPoints

/-! ### Single fields (R182): a byte is read as a value exactly when it is the value's byte -/

theorem finOf_eq_some_iff {n v : Nat} (i : Fin n) : finOf n v = some i ↔ i.val = v := by
  unfold finOf
  split
  · rw [Option.some.injEq, Fin.ext_iff, eq_comm]
  · rename_i hv
    exact ⟨nofun, fun h => absurd (h ▸ i.isLt) hv⟩

theorem boolOf_eq_some_iff {v : Nat} (b : Bool) : boolOf v = some b ↔ boolCode b = v := by
  unfold boolOf
  split
  · cases b <;> decide
  · cases b <;> decide
  · rename_i h0 h1
    refine ⟨nofun, fun h => ?_⟩
    cases b with
    | false => exact (h0 h.symm).elim
    | true => exact (h1 h.symm).elim

theorem policyOf_eq_some_iff {v : Nat} (p : TimeoutPolicy) : policyOf v = some p ↔ p.code = v := by
  unfold policyOf
  split
  · cases p <;> decide
  · cases p <;> decide
  · rename_i h0 h1
    refine ⟨nofun, fun h => ?_⟩
    cases p with
    | reject => exact (h0 h.symm).elim
    | pass => exact (h1 h.symm).elim

theorem optFinOf_eq_some_iff {n v : Nat} (hn : n ≤ 255) (o : Option (Fin n)) : optFinOf n v = some o ↔ optFinCode o = v := by
  unfold optFinOf
  split
  · rename_i hv
    subst hv
    cases o with
    | none => exact ⟨fun _ => rfl, fun _ => rfl⟩
    | some i =>
      have hi : i.val ≠ 255 := by omega
      exact ⟨nofun, fun h => absurd h hi⟩
  · rename_i hv
    cases o with
    | none =>
      refine ⟨fun h => ?_, fun h => absurd h.symm hv⟩
      split at h <;> cases h
    | some i =>
      split
      · rw [Option.some.injEq, Option.some.injEq, Fin.ext_iff, eq_comm]
        rfl
      · rename_i hlt
        exact ⟨nofun, fun h => absurd (show v < n from h ▸ i.isLt) hlt⟩

theorem exists_boolCode_iff {v : Nat} : (∃ b, boolCode b = v) ↔ v ≤ 1 := by
  constructor
  · rintro ⟨b, rfl⟩
    cases b <;> decide
  · intro h
    obtain rfl | rfl : v = 0 ∨ v = 1 := by omega
    · exact ⟨false, rfl⟩
    · exact ⟨true, rfl⟩

theorem exists_policyCode_iff {v : Nat} : (∃ p : TimeoutPolicy, p.code = v) ↔ v ≤ 1 := by
  constructor
  · rintro ⟨p, rfl⟩
    cases p <;> decide
  · intro h
    obtain rfl | rfl : v = 0 ∨ v = 1 := by omega
    · exact ⟨.reject, rfl⟩
    · exact ⟨.pass, rfl⟩

theorem exists_groupCode_iff {v : Nat} : (∃ o : Option (Fin 3), optFinCode o = v) ↔ v ≤ 2 ∨ v = 255 := by
  constructor
  · rintro ⟨none | g, rfl⟩
    · exact .inr rfl
    · exact .inl (Nat.le_of_lt_succ g.isLt)
  · rintro (h | rfl)
    · exact ⟨some ⟨v, Nat.lt_succ_of_le h⟩, rfl⟩
    · exact ⟨none, rfl⟩

/-! ### The fields of POINT CONFIG (R108, step 1) -/

/-- The fields of POINT CONFIG that step 1 of R108 lets pass. -/
def FieldsOk (f : PointFields) : Prop :=
  f.point ≤ 3 ∧ f.enable ≤ 1 ∧ 1 ≤ f.inspection ∧ f.inspection ≤ 62 ∧ f.inspection + 1 ≤ f.deadline ∧ f.deadline ≤ 63
    ∧ f.boundPort ≤ 3 ∧ f.policy ≤ 1 ∧ (f.trimGroup ≤ 2 ∨ f.trimGroup = 255) ∧ 1 ≤ f.limit ∧ f.limit ≤ 32

/-- The configuration read from the fields is the one whose bytes they are. -/
theorem fields_of_ofFields {f : PointFields} {i : Fin 4} {c : PointConfig} (h : PointConfig.ofFields f = some (i, c)) :
    i.val = f.point ∧ c.fields = { f with point := 0 } := by
  unfold PointConfig.ofFields at h
  split at h
  · rename_i hpoint henable hport hpolicy htrim
    split at h
    · cases h
      simp only [PointConfig.fields, (finOf_eq_some_iff _).mp hpoint, (boolOf_eq_some_iff _).mp henable,
        (finOf_eq_some_iff _).mp hport, (policyOf_eq_some_iff _).mp hpolicy,
        (optFinOf_eq_some_iff (by decide) _).mp htrim, and_self]
    · cases h
  · cases h

theorem fieldsOk_of_ofFields {f : PointFields} {i : Fin 4} {c : PointConfig} (h : PointConfig.ofFields f = some (i, c)) :
    FieldsOk f := by
  unfold PointConfig.ofFields at h
  split at h
  · rename_i j en port policy trim hpoint henable hport hpolicy htrim
    split at h
    · rename_i hrange
      obtain ⟨hI, hI', hD, hD', hL, hL'⟩ := hrange
      have hj := (finOf_eq_some_iff _).mp hpoint
      have hq := (finOf_eq_some_iff _).mp hport
      exact ⟨by omega, exists_boolCode_iff.mp ⟨en, (boolOf_eq_some_iff _).mp henable⟩, hI, hI', hD, hD', by omega,
        exists_policyCode_iff.mp ⟨policy, (policyOf_eq_some_iff _).mp hpolicy⟩,
        exists_groupCode_iff.mp ⟨trim, (optFinOf_eq_some_iff (by decide) _).mp htrim⟩, hL, hL'⟩
    · cases h
  · cases h

/-- Fields within their ranges are read as a configuration of the point they name. -/
theorem ofFields_of_fieldsOk {f : PointFields} {i : Fin 4} (hi : i.val = f.point) (h : FieldsOk f) :
    ∃ c, PointConfig.ofFields f = some (i, c) := by
  obtain ⟨-, hen, hI, hI', hD, hD', hport, hpolicy, htrim, hL, hL'⟩ := h
  obtain ⟨en, hen⟩ := exists_boolCode_iff.mpr hen
  obtain ⟨policy, hpolicy⟩ := exists_policyCode_iff.mpr hpolicy
  obtain ⟨trim, htrim⟩ := exists_groupCode_iff.mpr htrim
  refine ⟨⟨en, f.inspection, f.deadline, ⟨f.boundPort, Nat.lt_succ_of_le hport⟩, policy, trim, f.limit⟩, ?_⟩
  unfold PointConfig.ofFields
  rw [(finOf_eq_some_iff i).mpr hi, (boolOf_eq_some_iff en).mpr hen,
    (finOf_eq_some_iff (v := f.boundPort) ⟨f.boundPort, Nat.lt_succ_of_le hport⟩).mpr rfl,
    (policyOf_eq_some_iff policy).mpr hpolicy, (optFinOf_eq_some_iff (by decide) trim).mpr htrim]
  exact if_pos ⟨hI, hI', hD, hD', hL, hL'⟩

/-- A configuration is known by its bytes. -/
theorem fields_injective {c d : PointConfig} (h : c.fields = d.fields) : c = d := by
  obtain ⟨en, I, D, port, policy, trim, limit⟩ := c
  obtain ⟨en', I', D', port', policy', trim', limit'⟩ := d
  simp only [PointConfig.fields, PointFields.mk.injEq, true_and] at h
  obtain ⟨hen, rfl, rfl, hport, hpolicy, htrim, rfl⟩ := h
  have hen := ((boolOf_eq_some_iff en).mpr hen).symm.trans ((boolOf_eq_some_iff en').mpr rfl)
  have hpolicy := ((policyOf_eq_some_iff policy).mpr hpolicy).symm.trans ((policyOf_eq_some_iff policy').mpr rfl)
  have htrim := ((optFinOf_eq_some_iff (by decide) trim).mpr htrim).symm.trans
    ((optFinOf_eq_some_iff (by decide) trim').mpr rfl)
  cases hen
  cases Fin.ext hport
  cases hpolicy
  cases htrim
  rfl

/-! ### HOLD after a change of the causes (R174, R176) -/

variable (s t : State)

theorem refreshHold_of_eq (h : s.fh.anyCause = s.fh.hold) : s.refreshHold = s := if_pos h

theorem refreshHold_of_ne (h : s.fh.anyCause ≠ s.fh.hold) : s.refreshHold =
    (s.withFh { s.fh with hold := s.fh.anyCause }).notify (toRole .line)
      (.holdChanged s.fh.anyCause s.fh.faults s.fh.offline s.fh.backlog) := if_neg h

/-- HOLD takes the level of the causes; beside it, only notices are made. -/
theorem refreshHold_eq :
    s.refreshHold = (s.withFh { s.fh with hold := s.fh.anyCause }).withPorts s.refreshHold.ports := by
  by_cases h : s.fh.anyCause = s.fh.hold
  · rw [refreshHold_of_eq s h, h]
    rfl
  · rw [refreshHold_of_ne s h]
    rfl

theorem refreshHold_fh : s.refreshHold.fh = { s.fh with hold := s.fh.anyCause } := by
  rw [refreshHold_eq]
  rfl

theorem mem_push {q : Port} (n : NoticeRecord) (h : q.queue.length < 32) : n ∈ (q.push n).queue := by
  unfold Port.push
  rw [if_pos (show q.queue.length < queueLimit from h)]
  exact List.mem_append_right _ (List.mem_singleton_self n)

/-- A change of the level of HOLD is told to every LINE port with room for it. -/
theorem holdChanged_mem (h : s.fh.anyCause ≠ s.fh.hold) (q : PortId) (hrole : (s.port q).role = .line)
    (hroom : (s.port q).queue.length < 32) :
    (⟨s.pu.pitch, .holdChanged s.fh.anyCause s.fh.faults s.fh.offline s.fh.backlog⟩ : NoticeRecord)
      ∈ (s.refreshHold.port q).queue := by
  rw [refreshHold_of_ne s h, notify_port, port_withFh, hrole]
  exact mem_push _ hroom

/-! ### A point ONLINE again, its hold cause withdrawn (R109, R123) -/

/-- The state that POINT CONFIG and POINT RESUME leave before HOLD follows: the point has the configuration, ONLINE with
count 0, and its hold cause is withdrawn. -/
def backOnline (i : Fin 4) (c : PointConfig) : State :=
  (t.setPoint i ⟨c, false, 0⟩).withFh { t.fh with offline := t.fh.offline.set i false }

/-- What the return of a point to ONLINE does: the point, its hold cause, HOLD with its notice, and nothing else. -/
def Withdrawn (t u : State) (i : Fin 4) (c : PointConfig) : Prop :=
  u.point i = ⟨c, false, 0⟩ ∧ (∀ j : Fin 4, j ≠ i → u.point j = t.point j)
    ∧ u.fh = { t.fh with offline := t.fh.offline.set i false, hold := u.fh.hold } ∧ u.fh.hold = u.fh.anyCause
    ∧ (u.fh.hold = t.fh.hold → u.ports = t.ports)
    ∧ (u.fh.hold ≠ t.fh.hold → ∀ q, (t.port q).role = .line → (t.port q).queue.length < 32 →
      (⟨t.pu.pitch, .holdChanged u.fh.hold u.fh.faults u.fh.offline u.fh.backlog⟩ : NoticeRecord) ∈ (u.port q).queue)
    ∧ (∀ q, PortGrow (t.port q) (u.port q))
    ∧ u.pu = t.pu ∧ u.rs = t.rs ∧ u.tl = t.tl ∧ u.fu = t.fu ∧ u.tr = t.tr ∧ u.cu = t.cu ∧ u.bq = t.bq ∧ u.cc = t.cc
    ∧ u.fresh = t.fresh ∧ u.pending = t.pending

theorem backOnline_withdrawn (i : Fin 4) (c : PointConfig) : Withdrawn t (backOnline t i c).refreshHold i c := by
  have heq := refreshHold_eq (backOnline t i c)
  have hfh := refreshHold_fh (backOnline t i c)
  have hblock {α : Type} (block : State → α) := congrArg block heq
  have hpoint (j : Fin 4) : (backOnline t i c).refreshHold.point j = (t.setPoint i ⟨c, false, 0⟩).point j :=
    hblock (State.point · j)
  refine ⟨(hpoint i).trans (point_setPoint_self t i _), fun j hj => (hpoint j).trans (point_setPoint_ne t _ hj.symm), ?_, ?_,
    fun h => ?_, fun h q hrole hroom => ?_, (refreshHold_keeps (backOnline t i c)).ports, hblock State.pu,
    hblock State.rs, hblock State.tl, hblock State.fu, hblock State.tr, hblock State.cu,
    hblock State.bq, hblock State.cc, hblock State.fresh, hblock State.pending⟩
  · rw [hfh]
    rfl
  · rw [hfh]
    rfl
  · rw [hfh] at h
    rw [refreshHold_of_eq _ h]
    rfl
  · rw [hfh] at h ⊢
    exact holdChanged_mem (backOnline t i c) h q hrole hroom

/-! ### POINT CONFIG (R108, R109) -/

section
variable {s t} {f : PointFields} {i : Fin 4} {c : PointConfig}

theorem exec_pointConfig {p : PortId} (h : s.reaches p (.pointConfig p f) t) :
    exec (.pointConfig p f) s = .next ((ownPointConfig f t).1.answerPort p (ownPointConfig f t).2) :=
  congrArg Host.Outcome.next (takeCommand_reaches s (ownPointConfig f) h)

/-- R108, step 2, on the fields: an enabled point has its deadline upstream of the gate and an INSPECT port. -/
def Allowed (t : State) (f : PointFields) : Prop :=
  f.enable = 1 → f.deadline + 1 ≤ t.config.gate ∧ ∀ q : PortId, q.val = f.boundPort → (t.port q).role = .inspect

/-- POINT CONFIG from step 2 of R108 on. -/
theorem ownPointConfig_eq (h : PointConfig.ofFields f = some (i, c)) : ownPointConfig f t =
    if t.pointAllowed c = false then (t, .refuse .range)
    else if t.tl.ring ≠ [] then (t, .refuse .inUse)
    else if c = (t.point i).config then (t, .done)
    else ((backOnline t i c).refreshHold, .done) := by
  unfold ownPointConfig
  rw [h]
  rfl

theorem pointAllowed_iff (h : PointConfig.ofFields f = some (i, c)) : t.pointAllowed c = true ↔ Allowed t f := by
  have hc := (fields_of_ofFields h).2
  simp only [PointConfig.fields, PointFields.mk.injEq, true_and] at hc
  obtain ⟨hen, -, hD, hport, -⟩ := hc
  unfold State.pointAllowed Allowed
  rw [← hen, ← hD, ← hport]
  cases c.enable with
  | false => simp [boolCode]
  | true => simp [boolCode, ← Fin.ext_iff]

theorem ownPointConfig_range (h : ¬ FieldsOk f ∨ ¬ Allowed t f) : ownPointConfig f t = (t, .refuse .range) := by
  cases hf : PointConfig.ofFields f with
  | none =>
    unfold ownPointConfig
    rw [hf]
  | some ic =>
    have hnot : ¬ Allowed t f := h.resolve_left fun hbad => hbad (fieldsOk_of_ofFields hf)
    rw [ownPointConfig_eq hf, if_pos (Bool.eq_false_iff.mpr fun ha => hnot ((pointAllowed_iff hf).mp ha))]

theorem ownPointConfig_of_allowed (h : PointConfig.ofFields f = some (i, c)) (ha : Allowed t f) : ownPointConfig f t =
    if t.tl.ring ≠ [] then (t, .refuse .inUse)
    else if c = (t.point i).config then (t, .done)
    else ((backOnline t i c).refreshHold, .done) := by
  rw [ownPointConfig_eq h, if_neg (by simp [(pointAllowed_iff h).mpr ha])]

theorem ownPointConfig_inUse (h : PointConfig.ofFields f = some (i, c)) (ha : Allowed t f) (hr : t.tl.ring ≠ []) :
    ownPointConfig f t = (t, .refuse .inUse) := by
  rw [ownPointConfig_of_allowed h ha, if_pos hr]

theorem ownPointConfig_same (h : PointConfig.ofFields f = some (i, c)) (ha : Allowed t f) (hr : t.tl.ring = [])
    (hc : c = (t.point i).config) : ownPointConfig f t = (t, .done) := by
  rw [ownPointConfig_of_allowed h ha, if_neg (not_not_intro hr), if_pos hc]

theorem ownPointConfig_new (h : PointConfig.ofFields f = some (i, c)) (ha : Allowed t f) (hr : t.tl.ring = [])
    (hc : c ≠ (t.point i).config) : ownPointConfig f t = ((backOnline t i c).refreshHold, .done) := by
  rw [ownPointConfig_of_allowed h ha, if_neg (not_not_intro hr), if_neg hc]

end

/-! ### POINT RESUME (R123) -/

variable {s t}

theorem exec_pointResume {p : PortId} {point : Nat} (h : s.reaches p (.pointResume p point) t) :
    exec (.pointResume p point) s = .next ((ownPointResume p point t).1.answerPort p (ownPointResume p point t).2) :=
  congrArg Host.Outcome.next (takeCommand_reaches s (ownPointResume p point) h)

theorem ownPointResume_badPoint (p : PortId) {point : Nat} (h : 3 < point) : ownPointResume p point t = (t, .refuse .range) := by
  unfold ownPointResume
  rw [show finOf 4 point = none from dif_neg (by omega)]

/-- POINT RESUME of one of the four points. -/
theorem ownPointResume_eq (p : PortId) (i : Fin 4) : ownPointResume p i.val t =
    if (t.port p).role = .inspect ∧ (t.point i).config.port ≠ p then (t, .refuse .role)
    else if (t.point i).config.enable = false then (t, .refuse .state)
    else if (t.point i).offline = false then (t, .done)
    else ((backOnline t i (t.point i).config).refreshHold, .done) := by
  unfold ownPointResume
  rw [(finOf_eq_some_iff i).mpr rfl]
  rfl

/-- Settles O32: the order of the answers is that of the owners' tests, read on the fields; a point that is configured anew or
resumed returns to ONLINE by the withdrawal of its hold cause. -/
theorem pointsAreConfiguredAndResumed : Obligations.PointsAreConfiguredAndResumed := by
  unfold Obligations.PointsAreConfiguredAndResumed
  refine ⟨fun p f s t h => ?_, fun p point s t h => ⟨fun hp => ?_, ?_⟩⟩
  · rw [exec_pointConfig h]
    refine ⟨fun hbad => ?_, fun hok hallowed hring => ?_, fun i hi hok hallowed hring => ?_⟩
    · rw [ownPointConfig_range hbad]
    · obtain ⟨c, hc⟩ := ofFields_of_fieldsOk (i := ⟨f.point, Nat.lt_succ_of_le hok.1⟩) rfl hok
      rw [ownPointConfig_inUse hc hallowed hring]
    · obtain ⟨c, hc⟩ := ofFields_of_fieldsOk hi hok
      obtain ⟨-, hfields⟩ := fields_of_ofFields hc
      rw [← hfields]
      refine ⟨fun hsame => ?_, fun hnew => ?_⟩
      · rw [ownPointConfig_same hc hallowed hring (fields_injective hsame.symm)]
      · rw [ownPointConfig_new hc hallowed hring fun e => hnew (congrArg PointConfig.fields e.symm)]
        exact ⟨_, c, rfl, rfl, backOnline_withdrawn t i c⟩
  · rw [exec_pointResume h, ownPointResume_badPoint p hp]
  · rintro i rfl
    rw [exec_pointResume h, ownPointResume_eq p i]
    refine ⟨fun hf => ?_, fun hf hen => ?_, fun hf hen hon => ?_, fun hf hen hoff => ?_⟩
    · rw [if_pos hf]
    · rw [if_neg hf, if_pos hen]
    · rw [if_neg hf, if_neg (by simp [hen]), if_pos hon]
    · rw [if_neg hf, if_neg (by simp [hen]), if_neg (by simp [hoff])]
      exact ⟨_, rfl, backOnline_withdrawn t i _⟩

end Sys2Proof.Machine.InspectionPoints
end

section
/-! PROOFS. VERDICT (06): the fields of a verdict, the rows of R114, what an accepted verdict writes into its record (R115),
and what the measurement that it hands on can change (R93 to R101). -/

namespace Sys2Proof.Machine.Verdicts

open InspectionPoints (finOf_eq_some_iff boolOf_eq_some_iff)

/-! ### The fields of a verdict (R113) -/

theorem codesOf_eq_some_iff {l : List Nat} {cs : List Code} : codesOf l = some cs ↔ cs.map Fin.val = l := by
  induction l generalizing cs with
  | nil =>
    unfold codesOf
    rw [Option.some.injEq, List.map_eq_nil_iff, eq_comm]
  | cons a l ih =>
    unfold codesOf
    split
    · rename_i c ds hc hds
      rw [← (finOf_eq_some_iff c).mp hc, ← ih.mp hds, Option.some.injEq, ← List.map_cons,
        List.map_inj_right fun _ _ => Fin.ext, eq_comm]
    · rename_i hnone
      refine ⟨nofun, fun h => ?_⟩
      obtain ⟨c, ds, rfl, hc, hds⟩ := List.map_eq_cons_iff.mp h
      exact absurd (ih.mpr hds) (hnone c ds ((finOf_eq_some_iff c).mpr hc))

/-- The payloads of VERDICT that R113 lets pass. -/
def FieldsOk (point result m : Nat) (codes : List Nat) : Prop :=
  point ≤ 3 ∧ result ≤ 1 ∧ codes.length ≤ 16 ∧ (∀ c ∈ codes, c ≤ 15) ∧ (m ≤ 127 ∨ m = 255) ∧ (result = 0 → codes = [])

/-- The verdict that a payload carries. -/
structure Carries (v : VerdictFields) (i : Fin 4) (seq result m : Nat) (codes : List Nat) : Prop where
  point : v.point = i
  seq : v.seq = BitVec.ofNat 32 seq
  fail : v.fail = true ↔ result = 1
  codes : v.codes.map Fin.val = codes
  m : v.m = if m = 255 then none else some m

theorem fieldsOk_of_verdictOf {point seq result m : Nat} {codes : List Nat} {v : VerdictFields}
    (h : verdictOf point seq result m codes = some v) : FieldsOk point result m codes := by
  unfold verdictOf at h
  split at h
  · rename_i i fail cs hpoint hfail hcodes
    split at h
    · rename_i hrange
      obtain ⟨hlen, hm, hpass⟩ := hrange
      have hi := (finOf_eq_some_iff i).mp hpoint
      have hf := (boolOf_eq_some_iff fail).mp hfail
      have hc := codesOf_eq_some_iff.mp hcodes
      refine ⟨by omega, InspectionPoints.exists_boolCode_iff.mp ⟨fail, hf⟩, hlen, fun c hmem => ?_, hm, fun h0 => hpass ?_⟩
      · rw [← hc] at hmem
        obtain ⟨d, -, rfl⟩ := List.mem_map.mp hmem
        exact Nat.le_of_lt_succ d.isLt
      · cases fail with
        | false => rfl
        | true => exact absurd (hf.trans h0) (by decide)
    · cases h
  · cases h

theorem verdictOf_of_fieldsOk {point seq result m : Nat} {codes : List Nat} {i : Fin 4} (hi : i.val = point)
    (h : FieldsOk point result m codes) :
    ∃ v, verdictOf point seq result m codes = some v ∧ Carries v i seq result m codes := by
  obtain ⟨-, hresult, hlen, hcodes, hm, hpass⟩ := h
  obtain ⟨fail, hfail⟩ := InspectionPoints.exists_boolCode_iff.mpr hresult
  have hcs : (codes.pmap Fin.mk fun c hc => Nat.lt_succ_of_le (hcodes c hc) : List Code).map Fin.val = codes := by
    simp [List.map_pmap]
  have hone : fail = true ↔ result = 1 := by
    rw [← hfail]
    cases fail <;> decide
  refine ⟨⟨i, _, fail, _, _⟩, ?_, rfl, rfl, hone, hcs, rfl⟩
  unfold verdictOf
  rw [(finOf_eq_some_iff i).mpr hi, (boolOf_eq_some_iff fail).mpr hfail, codesOf_eq_some_iff.mpr hcs]
  refine if_pos ⟨hlen, hm, fun h0 => hpass ?_⟩
  rw [← hfail, h0]
  rfl

/-! ### The rows of R114 -/

section
variable {c : PointConfig} {pos : Nat} {st : PointStatus}

theorem verdictRefusal_notExpected (h : st = .notRequired) : verdictRefusal c pos st = some .notExpected := if_pos h

theorem verdictRefusal_early (h : st ≠ .notRequired) (hpos : pos < c.inspection) : verdictRefusal c pos st = some .early := by
  unfold verdictRefusal
  rw [if_neg h, if_pos hpos]

theorem verdictRefusal_duplicate (hpos : c.inspection ≤ pos) (h : st = .passed ∨ st = .failed) :
    verdictRefusal c pos st = some .duplicate := by
  unfold verdictRefusal
  rw [if_neg (by rintro rfl; simp at h), if_neg (Nat.not_lt.mpr hpos), if_pos h]

theorem verdictRefusal_late (hpos : c.inspection ≤ pos) (h : st = .timedOut ∨ (st = .open_ ∧ c.deadline ≤ pos)) :
    verdictRefusal c pos st = some .late := by
  unfold verdictRefusal
  obtain rfl | ⟨rfl, hdeadline⟩ := h
  · rw [if_neg (by decide), if_neg (Nat.not_lt.mpr hpos), if_neg (by decide), if_pos (.inl rfl)]
  · rw [if_neg (by decide), if_neg (Nat.not_lt.mpr hpos), if_neg (by decide), if_pos (.inr hdeadline)]

/-- A record from I to D − 1 that is OPEN meets no row. -/
theorem verdictRefusal_none (hpos : c.inspection ≤ pos) (hdeadline : pos < c.deadline) (h : st = .open_) :
    verdictRefusal c pos st = none := by
  subst h
  unfold verdictRefusal
  rw [if_neg (by decide), if_neg (Nat.not_lt.mpr hpos), if_neg (by decide), if_neg]
  rintro (h | h)
  · cases h
  · exact absurd hdeadline (Nat.not_lt.mpr h)

end

/-! ### The owner's answers (R113, R114) -/

section
variable {s t : State} {p : PortId} {point seq result m : Nat} {codes : List Nat} {v : VerdictFields}

theorem exec_verdict (h : s.reaches p (.verdict p point seq result m codes) t) :
    exec (.verdict p point seq result m codes) s
      = .next ((ownVerdict p point seq result m codes t).1.answerPort p (ownVerdict p point seq result m codes t).2) :=
  congrArg Host.Outcome.next (takeCommand_reaches s (ownVerdict p point seq result m codes) h)

theorem ownVerdict_badFields (h : ¬ FieldsOk point result m codes) :
    ownVerdict p point seq result m codes t = (t, .refuse .range) := by
  unfold ownVerdict
  cases hv : verdictOf point seq result m codes with
  | none => rfl
  | some v => exact absurd (fieldsOk_of_verdictOf hv) h

variable (hv : verdictOf point seq result m codes = some v)
include hv

theorem ownVerdict_role (hp : (t.point v.point).config.port ≠ p) :
    ownVerdict p point seq result m codes t = (t, .refuse .role) := by
  unfold ownVerdict
  rw [hv]
  exact if_pos hp

variable (hp : (t.point v.point).config.port = p)
include hp

theorem ownVerdict_state (hen : (t.point v.point).config.enable = false) :
    ownVerdict p point seq result m codes t = (t, .refuse .state) := by
  simp [ownVerdict, hv, hp, hen]

variable (hen : (t.point v.point).config.enable = true)
include hen

theorem ownVerdict_newer (hres : t.resolve v.seq = .newer) :
    ownVerdict p point seq result m codes t = (t, .refuse .noRecord) := by
  simp [ownVerdict, hv, hp, hen, hres]

theorem ownVerdict_gone (hres : t.resolve v.seq = .gone) :
    ownVerdict p point seq result m codes t = (t, .refuse .late) := by
  simp [ownVerdict, hv, hp, hen, hres]

variable {pos : Nat} {r : Record} (hres : t.resolve v.seq = .found pos r)
include hres

/-- A row of R114 that speaks of the record found gives the answer, and nothing is changed. -/
theorem ownVerdict_refused {st : Status} (h : verdictRefusal (t.point v.point).config pos r.status[v.point] = some st) :
    ownVerdict p point seq result m codes t = (t, .refuse st) := by
  simp only [ownVerdict, hv, hp, hen, hres, h, ne_eq, not_true_eq_false, if_false, reduceCtorEq]

theorem ownVerdict_accepted (h : verdictRefusal (t.point v.point).config pos r.status[v.point] = none) :
    ownVerdict p point seq result m codes t
      = (t.acceptVerdict v pos, .okWith (byte1 pos ++ byte1 v.newStatus.code)) := by
  simp only [ownVerdict, hv, hp, hen, hres, h, ne_eq, not_true_eq_false, if_false, reduceCtorEq]

end

/-! ### Records -/

/-- The codes that a verdict adds: its own and VISION FAIL where it is FAIL, none where it is PASS (R115, step 2). -/
def Adds (v : VerdictFields) (c : Code) : Prop := v.fail = true ∧ (c ∈ v.codes ∨ c = Code.visionFail)

theorem hasCode_addDefects (r : Record) (cs : List Code) (c : Code) :
    hasCode (r.addDefects cs).defects c = true ↔ hasCode r.defects c = true ∨ c ∈ cs := by
  unfold Record.addDefects
  induction cs generalizing r with
  | nil => simp
  | cons d cs ih =>
    rw [List.foldl_cons, ih, List.mem_cons, ← or_assoc, eq_comm (a := c)]
    simp only [Record.addDefect, hasCode_addCode, Bool.or_eq_true, decide_eq_true_eq]

theorem addDefects_eq (r : Record) (cs : List Code) : r.addDefects cs = { r with defects := (r.addDefects cs).defects } := by
  unfold Record.addDefects
  induction cs generalizing r with
  | nil => rfl
  | cons d cs ih => exact (ih (r.addDefect d)).trans rfl

/-- An accepted verdict writes the status, the codes and the deposit index. -/
theorem judged_eq (r : Record) (v : VerdictFields) : r.judged v = { r with
    status := r.status.set v.point v.newStatus, defects := (r.judged v).defects, deposit := v.m.or r.deposit } := by
  unfold Record.judged
  dsimp only
  cases v.fail with
  | false => cases v.m <;> rfl
  | true =>
    simp only [if_true]
    rw [addDefects_eq]
    cases v.m <;> rfl

theorem hasCode_judged (r : Record) (v : VerdictFields) (c : Code) :
    hasCode (r.judged v).defects c = true ↔ hasCode r.defects c = true ∨ Adds v c := by
  have hdefects : (r.judged v).defects = if v.fail then ((r.setStatus v.point v.newStatus).addDefects
      (v.codes ++ [Code.visionFail])).defects else r.defects := by
    unfold Record.judged
    dsimp only
    cases v.fail <;> cases v.m <;> rfl
  rw [hdefects]
  unfold Adds
  cases v.fail with
  | false => simp
  | true => simp [hasCode_addDefects, Record.setStatus]

theorem judged_sameBirth (r : Record) (v : VerdictFields) : SameBirth r (r.judged v) := by
  rw [judged_eq]
  exact ⟨rfl, rfl, rfl, rfl⟩

/-! ### The ring -/

section
variable {s t : State} {pos : Nat} {r : Record}

theorem recordAt_modifyAt (h : t.recordAt pos = some r) (f : Record → Record) :
    (t.modifyAt pos f).recordAt pos = some (f r) := by
  show (t.tl.ring.modify pos f)[pos]? = _
  rw [List.getElem?_modify_eq, show t.tl.ring[pos]? = some r from h]
  rfl

theorem recordAt_modifyAt_ne {j : Nat} (h : j ≠ pos) (f : Record → Record) :
    (t.modifyAt pos f).recordAt j = t.recordAt j := by
  show (t.tl.ring.modify pos f)[j]? = _
  rw [List.getElem?_modify_ne _ _ h.symm]
  rfl

/-- A change of the record at a position depends on that record alone. -/
theorem modifyAt_congr (h : t.recordAt pos = some r) {f g : Record → Record} (hfg : f r = g r) :
    t.modifyAt pos f = t.modifyAt pos g := by
  unfold State.modifyAt
  congr 1
  refine List.ext_getElem? fun j => ?_
  by_cases hj : pos = j
  · subst hj
    rw [List.getElem?_modify_eq, List.getElem?_modify_eq, show t.tl.ring[pos]? = some r from h]
    exact congrArg some hfg
  · rw [List.getElem?_modify_ne _ _ hj, List.getElem?_modify_ne _ _ hj]

theorem recordAt_modifyRecord (h : t.recordAt pos = some r) (f : Record → Record) :
    (t.modifyRecord r.seq f).recordAt pos = some (f r) := by
  show (t.tl.ring.map _)[pos]? = _
  rw [List.getElem?_map, show t.tl.ring[pos]? = some r from h]
  simp

/-- R45: the record found stands at its position and has the seq asked for. -/
theorem resolve_found {seq : Word32} (h : t.resolve seq = .found pos r) : t.recordAt pos = some r ∧ r.seq = seq := by
  unfold State.resolve at h
  split at h
  · cases h
  · split at h
    · rename_i k hk
      split at h
      · rename_i q hq
        cases h
        refine ⟨hq, ?_⟩
        obtain ⟨hlt, hseq, -⟩ := List.findIdx?_eq_some_iff_getElem.mp hk
        have hget : t.tl.ring[pos] = r := Option.some.inj ((List.getElem?_eq_getElem hlt).symm.trans hq)
        rw [← hget]
        exact eq_of_beq hseq
      · cases h
    · cases h

/-- The record of a ring at a place of another that agrees with it. -/
theorem rings_get_left {rel : Record → Record → Prop} {l m : List Record} (h : Rings rel l m) (hr : l[pos]? = some r) :
    ∃ q, m[pos]? = some q ∧ rel r q := by
  obtain ⟨hlt, -⟩ := List.getElem?_eq_some_iff.mp hr
  have hm : m[pos]? = some (m[pos]'(h.length ▸ hlt)) := List.getElem?_eq_getElem _
  obtain ⟨r', hr', hrel⟩ := h.get hm
  cases hr.symm.trans hr'
  exact ⟨_, hm, hrel⟩

theorem births_eq_of_tracked (h : Tracked s t) : t.births = s.births := by
  unfold State.births
  have hring := h.ring
  revert hring
  generalize s.tl.ring = l, t.tl.ring = m
  intro hring
  induction hring with
  | nil => rfl
  | cons hrq _ ih =>
    obtain ⟨hseq, hrun, hslot, hpitch⟩ := hrq
    rw [List.map_cons, List.map_cons, ih, hseq, hrun, hslot, hpitch]

end

/-! ### A measurement (R93 to R101) -/

/-- What a measurement may change: the Trim Regulator, and what the Firing Unit's work may change. -/
def TrimFrame (s t : State) : Prop := FiringFrame (s.withTr t.tr) t

section
variable {s t u : State}

theorem firingFrame_withTr (h : FiringFrame s t) (v : TR) : FiringFrame (s.withTr v) (t.withTr v) :=
  { h with tr := rfl }

theorem trimFrame_of_firing (h : FiringFrame s t) : TrimFrame s t := firingFrame_withTr h t.tr

theorem TrimFrame.refl (s : State) : TrimFrame s s := FiringFrame.refl s

theorem TrimFrame.trans (h : TrimFrame s t) (k : TrimFrame t u) : TrimFrame s u :=
  (firingFrame_withTr h u.tr).trans k

theorem TrimFrame.tracked (h : TrimFrame s t) : Tracked s t :=
  { FiringFrame.tracked h with }

theorem setGroup_trim (s : State) (g : Fin 3) (x : TrimGroup) : TrimFrame s (s.setGroup g x) := FiringFrame.refl _

end

section
variable (s : State)

theorem stepTrim_trim (i : Fin 3) (d : StepDir) (m : Nat) : TrimFrame s (s.stepTrim i d m) := by
  have hset := setGroup_trim s i ((s.group i).stepped d s.pu.pitch)
  unfold State.stepTrim
  dsimp only
  cases (s.group i).limitReached d with
  | none =>
    dsimp only
    split
    · exact hset
    · exact hset.trans (trimFrame_of_firing (takeTrim_frame _ i))
  | some high =>
    have hnotice := hset.trans (trimFrame_of_firing (firing_notify _ (toRole .line)
      (.trimLimit i high ((s.group i).stepped d s.pu.pitch).t d m)))
    dsimp only
    split
    · exact hnotice
    · exact hnotice.trans (trimFrame_of_firing (takeTrim_frame _ i))

theorem requestTrim_trim (i : Fin 3) (d : StepDir) (m : Nat) : TrimFrame s (s.requestTrim i d m) := by
  have hcount := setGroup_trim s i ((s.group i).countRequest d)
  unfold State.requestTrim
  dsimp only
  split
  · exact hcount.trans (stepTrim_trim _ i d m)
  · exact hcount

theorem measure_trim (i : Fin 3) (seq : Word32) (m : Nat) : TrimFrame s (s.measure i seq m) := by
  unfold State.measure
  cases (s.group i).config.classify m with
  | absent => exact trimFrame_of_firing (firing_modifyRecord s seq Code.gumAbsent)
  | thin =>
    dsimp only
    split
    · exact requestTrim_trim s i .up m
    · exact .refl s
  | inBand =>
    dsimp only
    split
    · exact setGroup_trim s i _
    · exact .refl s
  | heavy =>
    dsimp only
    split
    · exact requestTrim_trim s i .down m
    · exact .refl s

/-- R94, R95: a measurement at or below the noise marks its record GUM ABSENT. -/
theorem measure_absent (i : Fin 3) (seq : Word32) {m : Nat} (h : m ≤ (s.group i).config.noise) :
    s.measure i seq m = s.modifyRecord seq fun r => r.addDefect Code.gumAbsent := by
  unfold State.measure
  rw [show (s.group i).config.classify m = .absent from if_pos h]

end

/-! ### An accepted verdict (R115) -/

section
variable (t : State) (v : VerdictFields) (pos : Nat)

/-- The state after steps 1 and 2 of R115 and the deposit index of step 3. -/
def written : State := t.modifyAt pos fun r => r.judged v

theorem written_tracked : Tracked t (written t v pos) := tracked_modifyAt t pos _ fun r => judged_sameBirth r v

theorem handMeasurement_some {g : Fin 3} {m : Nat} (hg : (t.point v.point).config.trim = some g) (hm : v.m = some m) :
    t.handMeasurement v = t.measure g v.seq m := by
  unfold State.handMeasurement
  rw [hm, hg]

theorem handMeasurement_none (h : (t.point v.point).config.trim = none ∨ v.m = none) : t.handMeasurement v = t := by
  unfold State.handMeasurement
  split
  · rename_i hm hg
    rcases h with h | h
    · cases hg.symm.trans h
    · cases hm.symm.trans h
  · rfl

theorem handMeasurement_trim : TrimFrame t (t.handMeasurement v) := by
  unfold State.handMeasurement
  split
  · exact measure_trim t _ _ _
  · exact .refl t

/-- R106: only the group that the point feeds is reached. -/
theorem handMeasurement_group {g : Fin 3} (h : (t.point v.point).config.trim ≠ some g) :
    (t.handMeasurement v).group g = t.group g := by
  unfold State.handMeasurement
  split
  · rename_i k _ hk
    exact (TrimRegulation.measure_within t k _ _).others g fun e => h (e ▸ hk)
  · rfl

/-- Steps 3 and 4 of R115 after the record is written. -/
theorem acceptVerdict_eq : t.acceptVerdict v pos =
    ((written t v pos).handMeasurement v).setPoint v.point { t.point v.point with timeouts := 0 } := by
  have hiu : ((written t v pos).handMeasurement v).point v.point = t.point v.point :=
    (handMeasurement_trim (written t v pos) v).pass.point v.point
  unfold State.acceptVerdict
  exact congrArg (fun x : PointUnit => ((written t v pos).handMeasurement v).setPoint v.point { x with timeouts := 0 }) hiu

/-- Where no M is handed on, the accepted verdict is its record's writing and the count of 0. -/
theorem acceptVerdict_unmeasured (h : (t.point v.point).config.trim = none ∨ v.m = none) :
    t.acceptVerdict v pos = (written t v pos).setPoint v.point { t.point v.point with timeouts := 0 } := by
  rw [acceptVerdict_eq, handMeasurement_none (written t v pos) v h]

theorem acceptVerdict_point : (t.acceptVerdict v pos).point v.point = { t.point v.point with timeouts := 0 } := by
  rw [acceptVerdict_eq]
  exact point_setPoint_self _ _ _

theorem acceptVerdict_point_ne {j : Fin 4} (h : j ≠ v.point) : (t.acceptVerdict v pos).point j = t.point j := by
  rw [acceptVerdict_eq, point_setPoint_ne _ _ h.symm]
  exact (handMeasurement_trim (written t v pos) v).pass.point j

theorem acceptVerdict_tracked : Tracked t (t.acceptVerdict v pos) := by
  rw [acceptVerdict_eq]
  exact ((written_tracked t v pos).trans (handMeasurement_trim _ v).tracked).trans (tracked_setPoint _ _ _)

end

section
variable {t : State} {v : VerdictFields} {pos : Nat} {r : Record} (hr : t.recordAt pos = some r)
include hr

/-- Where M is handed on, the accepted verdict is its record's writing, the measurement and the count of 0. -/
theorem acceptVerdict_measured {g : Fin 3} {m : Nat} (hg : (t.point v.point).config.trim = some g) (hm : v.m = some m) :
    t.acceptVerdict v pos = ((t.modifyAt pos fun _ => r.judged v).measure g v.seq m).setPoint v.point
      { t.point v.point with timeouts := 0 } := by
  rw [acceptVerdict_eq, handMeasurement_some (written t v pos) v hg hm, written,
    modifyAt_congr hr (f := fun r => r.judged v) (g := fun _ => r.judged v) rfl]

/-- The record of an accepted verdict: as the verdict writes it, with more defects where its measurement sets any. -/
theorem acceptVerdict_recordAt : ∃ q, (t.acceptVerdict v pos).recordAt pos = some q ∧ DefectsOnly (r.judged v) q := by
  rw [acceptVerdict_eq]
  exact rings_get_left (handMeasurement_trim (written t v pos) v).ring (recordAt_modifyAt hr fun r => r.judged v)

theorem acceptVerdict_gumAbsent (hseq : r.seq = v.seq) {g : Fin 3} {m : Nat}
    (hg : (t.point v.point).config.trim = some g) (hm : v.m = some m) (hnoise : m ≤ (t.group g).config.noise) :
    (t.acceptVerdict v pos).recordAt pos = some ((r.judged v).addDefect Code.gumAbsent) := by
  have hw : (written t v pos).recordAt pos = some (r.judged v) := recordAt_modifyAt hr fun r => r.judged v
  have hsame : (r.judged v).seq = v.seq := (judged_sameBirth r v).1.trans hseq
  rw [acceptVerdict_eq, handMeasurement_some (written t v pos) v hg hm, measure_absent (written t v pos) g v.seq hnoise,
    ← hsame]
  exact recordAt_modifyRecord hw fun r => r.addDefect Code.gumAbsent

end

/-! ### The payload's fields in the verdict -/

section
variable {v : VerdictFields} {i : Fin 4} {seq result m : Nat} {codes : List Nat} (hc : Carries v i seq result m codes)
include hc

theorem Carries.newStatus : v.newStatus = if result = 1 then .failed else .passed := by
  unfold VerdictFields.newStatus
  simp only [hc.fail]

theorem Carries.adds_iff (c : Code) : Adds v c ↔ result = 1 ∧ (c.val ∈ codes ∨ c = 5) := by
  unfold Adds
  have hmem : c.val ∈ v.codes.map Fin.val ↔ c ∈ v.codes := by
    rw [List.mem_map]
    exact ⟨fun ⟨_, hd, he⟩ => Fin.ext he ▸ hd, fun h => ⟨c, h, rfl⟩⟩
  rw [hc.fail, ← hc.codes, hmem]
  rfl

theorem Carries.m_some (hm : m ≤ 127) : v.m = some m := by
  rw [hc.m, if_neg (by omega)]

theorem Carries.m_none (hm : m = 255) : v.m = none := by
  rw [hc.m, if_pos hm]

theorem Carries.deposit (r : Record) : v.m.or r.deposit = if m = 255 then r.deposit else some m := by
  rw [hc.m]
  split <;> rfl

end

/-- Settles O47: R114's rows are the tests of `verdictRefusal`; the accepted verdict writes its record and hands M to one group,
whose measurement stays in `TrimFrame`. -/
theorem verdictIsJudgedByTheFirstRow : Obligations.VerdictIsJudgedByTheFirstRow := by
  unfold Obligations.VerdictIsJudgedByTheFirstRow
  intro p point seq result m codes s t h
  rw [exec_verdict h]
  refine ⟨fun hbad => ?_, fun i hi hok => ?_⟩
  · rw [ownVerdict_badFields hbad]
  obtain ⟨v, hv, hc⟩ := verdictOf_of_fieldsOk hi hok
  obtain rfl := hc.point
  rw [← hc.seq]
  refine ⟨fun hp => ?_, fun hp hen => ?_, fun hp hen hres => ?_, fun hp hen hres => ?_, fun pos r hp hen hres =>
    ⟨fun hst => ?_, fun hst hpos => ?_, fun hpos hst => ?_, fun hpos hst => ?_, fun hpos hD hst => ?_⟩⟩
  · rw [ownVerdict_role hv hp]
  · rw [ownVerdict_state hv hp hen]
  · rw [ownVerdict_newer hv hp hen hres]
  · rw [ownVerdict_gone hv hp hen hres]
  · rw [ownVerdict_refused hv hp hen hres (verdictRefusal_notExpected hst)]
  · rw [ownVerdict_refused hv hp hen hres (verdictRefusal_early hst hpos)]
  · rw [ownVerdict_refused hv hp hen hres (verdictRefusal_duplicate hpos hst)]
  · rw [ownVerdict_refused hv hp hen hres (verdictRefusal_late hpos hst)]
  rw [ownVerdict_accepted hv hp hen hres (verdictRefusal_none hpos hD hst)]
  obtain ⟨hr, hseq⟩ := resolve_found hres
  obtain ⟨q, hq, hqr, hqc⟩ := acceptVerdict_recordAt (v := v) hr
  have hframe := handMeasurement_trim (written t v pos) v
  have hjudged (c : Code) := (hasCode_judged r v c).trans (or_congr_right (hc.adds_iff c))
  have hblock {α : Type} (block : State → α) := congrArg block (acceptVerdict_eq t v pos)
  refine ⟨t.acceptVerdict v pos, q, ?_, hq, ?_, fun c hcode => hqc c ((hjudged c).mpr hcode), fun g hg hm hnoise => ?_,
    fun g hg hm => ⟨_, r.judged v, rfl, ?_, hjudged, acceptVerdict_measured hr hg (hc.m_some hm)⟩, fun hnone => ?_,
    fun g hg => (hblock (State.group · g)).trans (handMeasurement_group (written t v pos) v hg),
    acceptVerdict_point t v pos, fun j => acceptVerdict_point_ne t v pos, (hblock State.tl).trans ?_,
    births_eq_of_tracked (acceptVerdict_tracked t v pos), (hblock State.pu).trans hframe.pu, (hblock State.rs).trans hframe.rs,
    (hblock State.cu).trans hframe.cu, (hblock State.bq).trans hframe.bq, (hblock State.cc).trans hframe.cc,
    (hblock State.fh).trans hframe.fh, (hblock State.fresh).trans hframe.fresh,
    (hblock State.pending).trans hframe.pending, fun x => ?_⟩
  · rw [hc.newStatus]
    split <;> rfl
  · rw [hqr, judged_eq, hc.newStatus, hc.deposit]
  · cases hq.symm.trans (acceptVerdict_gumAbsent hr hseq hg (hc.m_some hm) hnoise)
    simp [Record.addDefect, hasCode_addCode, Code.gumAbsent]
  · rw [hqr]
  · have heq := acceptVerdict_unmeasured t v pos (hnone.imp_right hc.m_none)
    rw [heq] at hq ⊢
    refine ⟨rfl, rfl, rfl, fun j hj => recordAt_modifyAt_ne hj _, fun c hcode => ?_⟩
    cases hq.symm.trans (recordAt_modifyAt hr fun r => r.judged v)
    exact (hjudged c).mp hcode
  · rw [hblock State.tl]
    exact hframe.tl
  · rw [hblock (State.port · x)]
    exact hframe.ports x

end Sys2Proof.Machine.Verdicts
end

section
/-! PROOFS. READ BATCH, BOX PEEK and BOX TAKE (07, 08): where the bytes of the batch record and of a box entry stand, what each
command leaves and answers (R139, R148, R149), and what the test of the backlog can do (R151, R174, R176). -/

namespace Sys2Proof.Machine.BatchAndBoxes

open InspectionPoints (refreshHold_of_eq refreshHold_of_ne refreshHold_eq refreshHold_fh)

/-! ### The bytes of the open batch record (R139) -/

section
variable (c : CU)

theorem slotOrZero_eq (v : Option SlotId) : slotOrZero v = byte1 ((v.map Fin.val).getD 0) := by
  cases v <;> rfl

/-- The layout as one list of bytes, whether the batch has an owner or not. -/
theorem batchLayout_eq : c.layout = flagByte c.batch.owner.isSome ++ byte4 c.batch.number.toNat
    ++ (optWord (c.batch.owner.map BatchOwner.run) ++ byte1 (((c.batch.owner.map BatchOwner.slot).map Fin.val).getD 0)
      ++ optWord (c.batch.owner.map BatchOwner.jobCode))
    ++ (byte4 c.batch.good.toNat ++ byte4 c.batch.reject.toNat ++ byte4 c.batch.sample.toNat ++ byte4 c.batch.suspect.toNat)
    ++ (optWord (c.batch.owner.map BatchOwner.firstSeq) ++ optWord (c.batch.owner.map BatchOwner.lastSeq))
    ++ (flagByte c.batch.overrun ++ flagByte c.forcePending) := by
  rw [← slotOrZero_eq]
  simp only [CU.layout, word, List.append_assoc]

theorem batchLayout_length : c.layout.length = 40 := by
  rw [batchLayout_eq]
  rfl

theorem batchLayout_presence : field c.layout 0 1 = flagByte c.batch.owner.isSome := by
  rw [batchLayout_eq]
  rfl

theorem batchLayout_number : field c.layout 1 4 = byte4 c.batch.number.toNat := by
  rw [batchLayout_eq]
  rfl

theorem batchLayout_run : field c.layout 5 9 = optWord (c.batch.owner.map BatchOwner.run)
    ++ byte1 (((c.batch.owner.map BatchOwner.slot).map Fin.val).getD 0) ++ optWord (c.batch.owner.map BatchOwner.jobCode) := by
  rw [batchLayout_eq]
  rfl

theorem batchLayout_counts : field c.layout 14 16 = byte4 c.batch.good.toNat ++ byte4 c.batch.reject.toNat
    ++ byte4 c.batch.sample.toNat ++ byte4 c.batch.suspect.toNat := by
  rw [batchLayout_eq]
  rfl

theorem batchLayout_seqs : field c.layout 30 8
    = optWord (c.batch.owner.map BatchOwner.firstSeq) ++ optWord (c.batch.owner.map BatchOwner.lastSeq) := by
  rw [batchLayout_eq]
  rfl

theorem batchLayout_flags : field c.layout 38 2 = flagByte c.batch.overrun ++ flagByte c.forcePending := by
  rw [batchLayout_eq]
  rfl

end

theorem boxLayout_length (e : BoxEntry) : e.layout.length = 39 := rfl

/-! ### The answers (R139, R148, R149) -/

section
variable {s t : State} {p : PortId} {e : BoxEntry} {rest : List BoxEntry}

theorem exec_readBatch (h : s.reaches p (.readBatch p) t) :
    exec (.readBatch p) s = .next (t.answerPort p (.okWith t.cu.layout)) :=
  congrArg Host.Outcome.next (takeCommand_reaches s ownReadBatch h)

theorem exec_boxPeek (h : s.reaches p (.boxPeek p) t) :
    exec (.boxPeek p) s = .next ((ownBoxPeek t).1.answerPort p (ownBoxPeek t).2) :=
  congrArg Host.Outcome.next (takeCommand_reaches s ownBoxPeek h)

theorem exec_boxTake (h : s.reaches p (.boxTake p) t) :
    exec (.boxTake p) s = .next ((ownBoxTake t).1.answerPort p (ownBoxTake t).2) :=
  congrArg Host.Outcome.next (takeCommand_reaches s ownBoxTake h)

theorem ownBoxPeek_empty (h : t.bq.entries = []) : ownBoxPeek t = (t, .refuse .empty) := by
  simp only [ownBoxPeek, h]

theorem ownBoxTake_empty (h : t.bq.entries = []) : ownBoxTake t = (t, .refuse .empty) := by
  simp only [ownBoxTake, h]

theorem ownBoxPeek_oldest (h : t.bq.entries = e :: rest) :
    ownBoxPeek t = (t, .okWith (e.layout ++ byte1 (rest.length + 1))) := by
  simp only [ownBoxPeek, h, boxPayload, State.occupancy, List.length_cons]

/-- The entries that BOX TAKE leaves, before the backlog is tested. -/
def leaveEntries (t : State) (rest : List BoxEntry) : State := t.withBq { t.bq with entries := rest }

theorem ownBoxTake_oldest (h : t.bq.entries = e :: rest) :
    ownBoxTake t = ((leaveEntries t rest).testBacklog, .okWith (e.layout ++ byte1 rest.length)) := by
  simp only [ownBoxTake, h, boxPayload, leaveEntries]

end

/-! ### The hold causes (R174) -/

section
variable (h : FH)

theorem tracking_iff : h.tracking = true ↔ h.faults ≠ ⟨false, false, false⟩ := by
  simp only [FH.tracking, FH.faults, ne_eq, FaultSet.mk.injEq, Bool.or_eq_true]
  cases h.reverseOverrun.latched <;> cases h.indexSlip.latched <;> simp

theorem anyCause_iff : h.anyCause = true ↔
    (h.faults ≠ ⟨false, false, false⟩ ∨ ∃ i : Fin 4, h.offline[i] = true) ∨ h.backlog = true := by
  have hpoints : (∃ i : Fin 4, h.offline[i] = true) ↔
      h.offline[0] = true ∨ h.offline[1] = true ∨ h.offline[2] = true ∨ h.offline[3] = true := by
    simp [Fin.exists_fin_succ]
  rw [← tracking_iff, hpoints]
  simp only [FH.anyCause, Bool.or_eq_true, or_assoc]

end

/-! ### The test of the backlog (R151) -/

section
variable (s : State)

/-- The level of the comparison: the occupancy is at the threshold, or above. -/
def atThreshold : Bool := decide (s.config.backlog ≤ s.bq.entries.length)

variable {s}

theorem testBacklog_def : s.testBacklog =
    if (atThreshold s && !s.bq.standing) = true then
      ((s.setBacklog true).notify (toRole .pack) (.backlog s.occupancy s.config.backlog s.bq.oldest)).refreshHold
    else if (!atThreshold s && s.bq.standing) = true then (s.setBacklog false).refreshHold
    else s := rfl

/-- A cause that stands as the comparison says is left as it is. -/
theorem testBacklog_same (h : s.bq.standing = atThreshold s) : s.testBacklog = s := by
  rw [testBacklog_def, h, if_neg (by simp), if_neg (by simp)]

theorem testBacklog_set (hl : atThreshold s = true) (h : s.bq.standing = false) : s.testBacklog
    = ((s.setBacklog true).notify (toRole .pack) (.backlog s.occupancy s.config.backlog s.bq.oldest)).refreshHold := by
  rw [testBacklog_def, if_pos (by simp [hl, h])]

theorem testBacklog_withdrawn (hl : atThreshold s = false) (h : s.bq.standing = true) :
    s.testBacklog = (s.setBacklog false).refreshHold := by
  rw [testBacklog_def, if_neg (by simp [hl]), if_pos (by simp [hl, h])]

variable (s)

/-- The cause takes the level of the comparison. Either it had it, and nothing happens; or it is changed, with notices, and
HOLD follows. -/
theorem testBacklog_cases : (s.bq.standing = atThreshold s ∧ s.testBacklog = s)
    ∨ ∃ ports, s.testBacklog = ((s.setBacklog (atThreshold s)).withPorts ports).refreshHold := by
  by_cases h : s.bq.standing = atThreshold s
  · exact .inl ⟨h, testBacklog_same h⟩
  · right
    cases hl : atThreshold s with
    | true => exact ⟨_, testBacklog_set hl (by simpa [hl] using h)⟩
    | false => exact ⟨s.ports, testBacklog_withdrawn hl (by simpa [hl] using h)⟩

theorem testBacklog_bq : s.testBacklog.bq = { s.bq with standing := atThreshold s } := by
  obtain ⟨h, heq⟩ | ⟨ports, heq⟩ := testBacklog_cases s
  · rw [heq, ← h]
  · rw [heq, refreshHold_eq]
    rfl

theorem testBacklog_fh :
    s.testBacklog.fh = { s.fh with backlog := s.testBacklog.fh.backlog, hold := s.testBacklog.fh.hold } := by
  obtain ⟨-, heq⟩ | ⟨ports, heq⟩ := testBacklog_cases s
  · rw [heq]
  · rw [heq, refreshHold_fh]
    rfl

/-- The test of the backlog reaches the Box Queue, the Fault and Hold Logic and the ports alone. -/
theorem testBacklog_eq : s.testBacklog =
    ((s.withBq s.testBacklog.bq).withFh s.testBacklog.fh).withPorts s.testBacklog.ports := by
  obtain ⟨-, heq⟩ | ⟨ports, heq⟩ := testBacklog_cases s
  · rw [heq]
    rfl
  · rw [heq, refreshHold_eq]
    rfl

/-- The two records of the cause that agree before the test agree after it. -/
theorem testBacklog_agree (h : s.fh.backlog = s.bq.standing) : s.testBacklog.fh.backlog = s.testBacklog.bq.standing := by
  obtain ⟨-, heq⟩ | ⟨ports, heq⟩ := testBacklog_cases s
  · rw [heq, h]
  · rw [testBacklog_bq, heq, refreshHold_fh]
    rfl

end

/-! ### HOLD under the backlog cause (R174, R176) -/

/-- While BACKLOG is STANDING, HOLD becomes ACTIVE, and tells LINE only where it was not. -/
theorem refreshHold_standing (t : State) (h : t.fh.backlog = true) :
    t.refreshHold = (t.withFh { t.fh with hold := true }).withPorts t.refreshHold.ports
    ∧ (t.fh.hold = true → t.refreshHold.ports = t.ports)
    ∧ (t.fh.hold = false → t.refreshHold.ports
      = (t.notify (toRole .line) (.holdChanged true t.fh.faults t.fh.offline true)).ports) := by
  have hlevel : t.fh.anyCause = true := (anyCause_iff t.fh).mpr (.inr h)
  refine ⟨?_, fun hh => ?_, fun hh => ?_⟩
  · rw [← hlevel]
    exact refreshHold_eq t
  · rw [refreshHold_of_eq t (hlevel.trans hh.symm)]
  · rw [refreshHold_of_ne t (by simp [hlevel, hh]), hlevel, h]
    rfl

/-- Settles O15: each command reaches its owner and answers its layout; what BOX TAKE leaves is what the test of the backlog can
do, and the notices of that test are those of HOLD after the cause has taken the level of the comparison. -/
theorem batchAndBoxesAreRead : Obligations.BatchAndBoxesAreRead := by
  unfold Obligations.BatchAndBoxesAreRead
  refine ⟨fun p s t h => ⟨t.cu.layout, exec_readBatch h, batchLayout_length _, batchLayout_presence _, batchLayout_number _,
      fun hnone => ⟨?_, ?_⟩, fun o ho => ⟨?_, ?_⟩, batchLayout_counts _, batchLayout_flags _⟩,
    fun p s t hq => ⟨fun h => ?_, fun h => ?_⟩,
    fun p s t e rest hq => ⟨e.layout, boxLayout_length e, ?_, fun h => ?_, fun h => ?_⟩,
    fun s => ⟨fun hl hs => ?_, fun hl hs => ?_, fun hl hs e rest hq => ?_, fun hl hs => ?_⟩⟩
  · rw [batchLayout_run, hnone]
    rfl
  · rw [batchLayout_seqs, hnone]
    rfl
  · rw [batchLayout_run, ho]
    rfl
  · rw [batchLayout_seqs, ho]
    rfl
  · rw [exec_boxPeek h, ownBoxPeek_empty hq]
  · rw [exec_boxTake h, ownBoxTake_empty hq]
  · unfold BoxEntry.layout
    cases e.reason <;> rfl
  · rw [exec_boxPeek h, ownBoxPeek_oldest hq]
  · rw [exec_boxTake h, ownBoxTake_oldest hq]
    have hbq := testBacklog_bq (leaveEntries t rest)
    have hblock {α : Type} (block : State → α) := congrArg block (testBacklog_eq (leaveEntries t rest))
    exact ⟨(leaveEntries t rest).testBacklog, rfl, rfl, congrArg BQ.entries hbq, congrArg BQ.standing hbq,
      testBacklog_agree (leaveEntries t rest), testBacklog_fh (leaveEntries t rest), hblock State.pu, hblock State.rs,
      hblock State.tl, hblock State.fu, hblock State.tr, hblock State.iu, hblock State.cu, hblock State.cc,
      hblock State.fresh, hblock State.pending, (testBacklog_keeps (leaveEntries t rest)).ports⟩
  · exact testBacklog_same (hs.trans (decide_eq_true hl).symm)
  · exact testBacklog_same (hs.trans (decide_eq_false hl).symm)
  · have holdest : s.bq.oldest = e.number := by
      simp only [BQ.oldest, hq]
    rw [testBacklog_set (decide_eq_true hl) hs, holdest]
    obtain ⟨heq, hsame, hchanged⟩ := refreshHold_standing
      ((s.setBacklog true).notify (toRole .pack) (.backlog s.occupancy s.config.backlog e.number)) rfl
    exact ⟨_, _, rfl, rfl, heq, hsame, hchanged⟩
  · rw [testBacklog_withdrawn (decide_eq_false hl) hs]
    refine ⟨_, rfl, ?_, ?_, fun hsame => ?_, fun hchanged => ?_⟩
    · rw [refreshHold_fh]
      exact refreshHold_eq (s.setBacklog false)
    · rw [refreshHold_fh]
      exact (anyCause_iff (s.setBacklog false).fh).trans (or_iff_left Bool.false_ne_true)
    · rw [refreshHold_fh] at hsame
      rw [refreshHold_of_eq _ hsame]
      rfl
    · rw [refreshHold_fh] at hchanged ⊢
      rw [refreshHold_of_ne _ hchanged]
      rfl

end Sys2Proof.Machine.BatchAndBoxes
end

section
/-! PROOFS. The causes of HOLD and the raise counts (10): what their laws read, which operations move it, and why each of these
leaves HOLD at the level of the causes (R151, R169, R174); every event of motion keeps both laws. -/

namespace Sys2Proof.Machine.HoldCauses

open InspectionPoints (refreshHold_fh refreshHold_eq)
open BatchAndBoxes (testBacklog_cases testBacklog_fh atThreshold)

/-! ### What the two laws read -/

/-- The items that the law of HOLD reads: the Fault and Hold Logic, the Box Queue, its threshold, the point states. -/
def holdView (s : State) : FH × BQ × Nat × (Fin 4 → Bool) :=
  (s.fh, s.bq, s.config.backlog, fun i => (s.point i).offline)

section
variable {s t u : State}

theorem holdView_eq_iff : holdView t = holdView s ↔ t.fh = s.fh ∧ t.bq = s.bq ∧ t.config.backlog = s.config.backlog
    ∧ ∀ i, (t.point i).offline = (s.point i).offline := by
  simp only [holdView, Prod.mk.injEq, funext_iff]

theorem holdLaw_of_view (h : holdView t = holdView s) (hs : s.holdLaw) : t.holdLaw := by
  obtain ⟨hfh, hbq, hlimit, hpoints⟩ := holdView_eq_iff.mp h
  unfold State.holdLaw State.occupancy at *
  simpa only [hfh, hbq, hlimit, hpoints] using hs

theorem faultLaw_of_latches (h : ∀ f, t.fh.latch f = s.fh.latch f) (hs : s.faultLaw) : t.faultLaw := fun f => by
  rw [h f]
  exact hs f

theorem view_of_pass (h : PassFrame s t) : holdView t = holdView s := by
  simp only [holdView, State.config, State.point, h.fh, h.bq, h.pu, h.iu]

theorem view_of_firing (h : FiringFrame s t) : holdView t = holdView s := view_of_pass h.pass

/-- The state after keeps the law of HOLD and the law of the raise counts. -/
structure KeepsCauses (s t : State) : Prop where
  hold : s.holdLaw → t.holdLaw
  fault : s.faultLaw → t.faultLaw

theorem KeepsCauses.of_view (h : holdView t = holdView s) : KeepsCauses s t where
  hold := holdLaw_of_view h
  fault := faultLaw_of_latches fun f => by rw [(holdView_eq_iff.mp h).1]

theorem KeepsCauses.refl (s : State) : KeepsCauses s s := ⟨id, id⟩

theorem KeepsCauses.trans (h : KeepsCauses s t) (k : KeepsCauses t u) : KeepsCauses s u :=
  ⟨k.hold ∘ h.hold, k.fault ∘ h.fault⟩

theorem causes_of_pass (h : PassFrame s t) : KeepsCauses s t := .of_view (view_of_pass h)

theorem causes_of_firing (h : FiringFrame s t) : KeepsCauses s t := .of_view (view_of_firing h)

end

variable (s : State)

theorem causes_fold {α : Type} (f : State → α → State) (h : ∀ s a, KeepsCauses s (f s a)) (l : List α) :
    KeepsCauses s (l.foldl f s) := fold_frame KeepsCauses.refl (fun _ _ _ => KeepsCauses.trans) f h l s

/-! ### HOLD takes the level of the causes (R174) -/

/-- The causes follow their owners, whatever the level of HOLD. -/
def CausesFollow (s : State) : Prop :=
  (∀ i : Fin 4, s.fh.offline[i] = (s.point i).offline) ∧ s.fh.backlog = s.bq.standing ∧ s.bq.standing = atThreshold s

theorem holdLaw_iff : s.holdLaw ↔ s.fh.hold = s.fh.anyCause ∧ CausesFollow s := Iff.rfl

theorem refreshHold_point (i : Fin 4) : s.refreshHold.point i = s.point i := by
  rw [refreshHold_eq]
  rfl

theorem refreshHold_holdLaw (h : CausesFollow s) : s.refreshHold.holdLaw := by
  rw [refreshHold_eq]
  exact ⟨rfl, h⟩

theorem refreshHold_latch (f : TrackFault) : s.refreshHold.fh.latch f = s.fh.latch f := by
  rw [refreshHold_fh]
  cases f <;> rfl

/-! ### The point states (R119, R123) -/

section
variable {s} {t : State} {i : Fin 4} {u : PointUnit}

theorem view_setPoint (h : u.offline = (s.point i).offline) : holdView (s.setPoint i u) = holdView s := by
  refine holdView_eq_iff.mpr ⟨rfl, rfl, rfl, fun j => ?_⟩
  by_cases e : i = j
  · subst e
    rw [point_setPoint_self, h]
  · rw [point_setPoint_ne s u e]

/-- INSPECTION LOST is set or withdrawn with the point state that it stands for. -/
theorem setOffline_causes (h : holdView t = holdView (s.setPoint i u)) : KeepsCauses s (t.setOffline i u.offline) := by
  obtain ⟨hfh, hbq, hlimit, hpoints⟩ := holdView_eq_iff.mp h
  refine ⟨fun hs => refreshHold_holdLaw _ ⟨fun j => ?_, ?_⟩, faultLaw_of_latches fun f => ?_⟩
  · obtain ⟨-, hoffline, -⟩ := hs
    show (t.fh.offline.set i u.offline)[j] = (t.point j).offline
    rw [hpoints j, hfh]
    by_cases e : i = j
    · subst e
      rw [point_setPoint_self]
      exact Vector.getElem_set_self _
    · rw [point_setPoint_ne s u e, ← hoffline j]
      exact Vector.getElem_set_ne _ _ fun k => e (Fin.ext k)
  · obtain ⟨-, -, hbacklog, hstanding⟩ := hs
    show t.fh.backlog = t.bq.standing ∧ t.bq.standing = decide (t.config.backlog ≤ t.bq.entries.length)
    rw [hfh, hbq, hlimit]
    exact ⟨hbacklog, hstanding⟩
  · refine (refreshHold_latch _ f).trans ?_
    rw [show s.fh = t.fh from hfh.symm]
    cases f <;> rfl

end

/-! ### The backlog (R151) -/

theorem testBacklog_latch (f : TrackFault) : s.testBacklog.fh.latch f = s.fh.latch f := by
  rw [testBacklog_fh]
  cases f <;> rfl

/-- The test of the backlog restores the law of HOLD where the comparison alone may be out of date. -/
theorem testBacklog_holdLaw (hhold : s.fh.hold = s.fh.anyCause)
    (hoffline : ∀ i : Fin 4, s.fh.offline[i] = (s.point i).offline) (hbacklog : s.fh.backlog = s.bq.standing) :
    s.testBacklog.holdLaw := by
  obtain ⟨hsame, heq⟩ | ⟨ports, heq⟩ := testBacklog_cases s
  · rw [heq]
    exact ⟨hhold, hoffline, hbacklog, hsame⟩
  · rw [heq]
    exact refreshHold_holdLaw _ ⟨hoffline, rfl, rfl⟩

/-- After a change of the entries or of the threshold, the test of the backlog keeps both laws. -/
theorem testBacklog_causes {s t : State} (hfh : t.fh = s.fh) (hiu : t.iu = s.iu) (hbq : t.bq.standing = s.bq.standing) :
    KeepsCauses s t.testBacklog where
  hold := by
    rintro ⟨hhold, hoffline, hbacklog, -⟩
    refine testBacklog_holdLaw t ?_ (fun i => ?_) ?_
    · rw [hfh, hhold]
    · rw [hfh, hoffline i, State.point, State.point, hiu]
    · rw [hfh, hbq, hbacklog]
  fault := faultLaw_of_latches fun f => by rw [testBacklog_latch, hfh]

/-! ### Tracking faults (R169, R172) -/

theorem raised_law {l : FaultLatch} (h : l.law) : l.raised.law := by
  unfold FaultLatch.law FaultLatch.raised at *
  cases hl : l.latched with
  | false => simp
  | true =>
    simp only [hl, if_true] at h ⊢
    omega

theorem latch_setLatch (h : FH) (f g : TrackFault) (l : FaultLatch) :
    (h.setLatch f l).latch g = if g = f then l else h.latch g := by
  cases f <;> cases g <;> rfl

theorem anyCause_of_latched {h : FH} {f : TrackFault} (hl : (h.latch f).latched = true) : h.anyCause = true := by
  have htracking : h.tracking = true := by
    simp only [FH.tracking, Bool.or_eq_true]
    cases f with
    | reverseOverrun => exact .inl (.inl hl)
    | indexSlip => exact .inl (.inr hl)
    | quadratureError => exact .inr hl
  simp [FH.anyCause, htracking]

/-- The state of a raise before its notice and before HOLD follows. -/
def latchRaised (s : State) (f : TrackFault) : State := s.disturb.withFh (s.fh.setLatch f (s.fh.latch f).raised)

theorem latchRaised_follows (f : TrackFault) (h : CausesFollow s) : CausesFollow (latchRaised s f) := by
  cases f <;> exact h

theorem latchRaised_hold (f : TrackFault) : (latchRaised s f).fh.hold = s.fh.hold := by
  cases f <;> rfl

theorem latchRaised_latch (f g : TrackFault) :
    (latchRaised s f).fh.latch g = if g = f then (s.fh.latch f).raised else s.fh.latch g := latch_setLatch s.fh f g _

/-- R169: a raise of a latched fault counts it; of another, it latches it, tells LINE and SERVICE, and HOLD follows. -/
theorem raiseFault_cases (f : TrackFault) (e : Int) :
    ((s.fh.latch f).latched = true ∧ s.raiseFault f e = latchRaised s f)
      ∨ ∃ ports, s.raiseFault f e = ((latchRaised s f).withPorts ports).refreshHold := by
  unfold State.raiseFault
  dsimp only
  split
  · exact .inl ⟨‹_›, rfl⟩
  · exact .inr ⟨_, rfl⟩

theorem raiseFault_latch (f g : TrackFault) (e : Int) :
    (s.raiseFault f e).fh.latch g = if g = f then (s.fh.latch f).raised else s.fh.latch g := by
  rw [← latchRaised_latch]
  obtain ⟨-, heq⟩ | ⟨ports, heq⟩ := raiseFault_cases s f e
  · rw [heq]
  · rw [heq, refreshHold_latch]
    rfl

theorem raiseFault_causes (f : TrackFault) (e : Int) : KeepsCauses s (s.raiseFault f e) where
  hold := by
    rintro ⟨hhold, hfollow⟩
    have hafter := latchRaised_follows s f hfollow
    obtain ⟨hlatched, heq⟩ | ⟨ports, heq⟩ := raiseFault_cases s f e
    · have hraised : ((latchRaised s f).fh.latch f).latched = true := by
        rw [latchRaised_latch, if_pos rfl]
        rfl
      rw [heq]
      refine ⟨?_, hafter⟩
      rw [latchRaised_hold, hhold, anyCause_of_latched hlatched, anyCause_of_latched hraised]
    · rw [heq]
      exact refreshHold_holdLaw _ hafter
  fault := by
    intro hs g
    rw [raiseFault_latch]
    split
    · exact raised_law (hs f)
    · exact hs g

/-- The state of a FAULT CLEAR before HOLD follows: no fault latched, no raise counted. -/
def unlatched (s : State) : State :=
  s.withFh { s.fh with reverseOverrun := ⟨false, 0⟩, indexSlip := ⟨false, 0⟩, quadratureError := ⟨false, 0⟩ }

theorem clearFaults_of_tracking (h : s.fh.tracking = true) : s.clearFaults = (unlatched s).refreshHold := if_pos h

theorem clearFaults_of_none (h : s.fh.tracking = false) : s.clearFaults = s := if_neg (by simp [h])

theorem clearFaults_causes : KeepsCauses s s.clearFaults := by
  cases h : s.fh.tracking with
  | false =>
    rw [clearFaults_of_none s h]
    exact .refl s
  | true =>
    rw [clearFaults_of_tracking s h]
    refine ⟨fun hs => refreshHold_holdLaw _ hs.2, fun _ f => ?_⟩
    rw [refreshHold_latch]
    cases f <;> rfl

/-! ### Counting and closing (07, 08) -/

theorem view_completeEnding : holdView s.completeEnding = holdView s := by
  unfold State.completeEnding
  split <;> rfl

theorem view_countRecord (r : Record) : holdView (s.countRecord r) = holdView s := by
  have hbatch : holdView (s.countInBatch r) = holdView s := by
    unfold State.countInBatch
    split
    · rfl
    · dsimp only
      split <;> rfl
  unfold State.countRecord
  dsimp only
  split
  · exact hbatch
  · exact hbatch

/-- R134: the entry joins the queue, and the backlog is tested before the next batch opens. -/
theorem closeWith_causes (e : BoxEntry) : KeepsCauses s (s.closeWith e) :=
  (testBacklog_causes (s := s) (t := (s.withBq { s.bq with entries := s.bq.entries ++ [e] }).notify (toRole .pack)
    (.batchClosed e.number e.reason e.good)) rfl rfl rfl).trans (.of_view (by rfl))

theorem endBatch_causes (reason : CloseReason) : KeepsCauses s (s.endBatch reason) := by
  unfold State.endBatch
  split
  · exact (KeepsCauses.of_view (by rfl)).trans (closeWith_causes s.markClosing _)
  · exact .of_view rfl

theorem clearBatch_causes : KeepsCauses s s.clearBatch := by
  unfold State.clearBatch
  split
  · exact closeWith_causes s _
  · exact .of_view rfl

theorem fullClose_causes : KeepsCauses s s.fullClose := by
  unfold State.fullClose
  split
  · exact endBatch_causes s .full
  · exact .of_view rfl

theorem closeTests_causes (r : Record) : KeepsCauses s (s.closeTests r) := by
  unfold State.closeTests
  split
  · exact (endBatch_causes s .runEnd).trans (.of_view (view_completeEnding ((s.endBatch .runEnd).setForce false)))
  · split
    · exact (endBatch_causes s .forced).trans (.of_view rfl)
    · split
      · exact fullClose_causes s
      · exact .refl s

theorem countArrival_causes : KeepsCauses s s.countArrival := by
  unfold State.countArrival
  split
  · exact (KeepsCauses.of_view (view_countRecord s _)).trans (closeTests_causes _ _)
  · exact .refl s

/-- R64: of TRACK CLEAR's effects the close of the batch alone reaches a cause. -/
theorem trackCleared_causes : KeepsCauses s s.trackCleared :=
  (clearBatch_causes s).trans (.of_view (view_completeEnding s.clearBatch))

/-! ### The arrivals of a pitch advance (R49) -/

theorem view_inspectionArrival (i : Fin 4) : holdView (s.inspectionArrival i) = holdView s := by
  unfold State.inspectionArrival
  dsimp only
  split
  · split
    · split <;> rfl
    · rfl
  · rfl

theorem takeOffline_causes (i : Fin 4) (seq : Word32) : KeepsCauses s (s.takeOffline i seq) :=
  setOffline_causes (u := { s.point i with offline := true }) rfl

theorem deadline_causes (i : Fin 4) : KeepsCauses s (s.deadline i) := by
  have hmissed (a : State) (n : Nat) (ha : holdView a = holdView s) (hi : a.iu = s.iu) :
      KeepsCauses s (a.setPoint i { s.point i with timeouts := n }) :=
    .of_view ((view_setPoint (by rw [State.point, State.point, hi])).trans ha)
  unfold State.deadline
  dsimp only
  generalize (if (s.point i).timeouts < (s.point i).config.limit then (s.point i).timeouts + 1
    else (s.point i).timeouts) = n
  split
  · split
    · split
      · refine KeepsCauses.trans ?_ (takeOffline_causes _ _ _)
        exact hmissed _ n rfl rfl
      · exact hmissed _ n rfl rfl
    · exact .refl s
  · exact .refl s

theorem pointArrivals_causes (i : Fin 4) : KeepsCauses s (s.pointArrivals i) := by
  unfold State.pointArrivals
  split
  · exact (KeepsCauses.of_view (view_inspectionArrival s i)).trans (deadline_causes _ i)
  · exact .refl s

theorem inspectFrom_causes (first : Fin 4) : KeepsCauses s (s.inspectFrom first) := causes_fold s _ pointArrivals_causes _

theorem view_decideFate : holdView s.decideFate = holdView s := by
  unfold State.decideFate
  split
  · split
    · unfold State.decideRecord
      dsimp only
      split
      · rfl
      · split <;> rfl
    · rfl
  · rfl

theorem inspectThenCount_causes (first : Fin 4) : KeepsCauses s (s.inspectThenCount first) :=
  ((inspectFrom_causes s first).trans (.of_view (view_decideFate _))).trans (countArrival_causes _)

theorem countThenInspect_causes (first : Fin 4) : KeepsCauses s (s.countThenInspect first) :=
  ((countArrival_causes s).trans (inspectFrom_causes _ first)).trans (.of_view (view_decideFate _))

theorem withFresh_causes (n : Nat) : KeepsCauses s (s.withFresh n) := .of_view rfl

/-- Whichever cause of the advance is set first, and whatever HOLD CHANGED names, both laws are kept (R176). -/
theorem arrivals_causes : KeepsCauses s s.arrivals := by
  have hnamed (t : State) (b : BitVec 5) (h : KeepsCauses s t) : KeepsCauses s (s.nameCauses t b) := h.trans (.of_view rfl)
  unfold State.arrivals
  dsimp only
  split
  · refine hnamed _ _ ?_
    split
    · exact (withFresh_causes s _).trans (inspectThenCount_causes _ _)
    · exact (withFresh_causes s _).trans (countThenInspect_causes _ _)
  · exact inspectThenCount_causes s 0

theorem view_endCurrent : holdView s.endCurrent = holdView s := by
  unfold State.endCurrent
  split
  · split <;> rfl
  · split <;> rfl

theorem view_switchTest : holdView s.switchTest = holdView s := by
  unfold State.switchTest
  split
  · split
    · split
      · unfold State.takeSwitch
        split
        · exact view_endCurrent s
        · exact view_endCurrent s
      · unfold State.deferSwitch
        split <;> rfl
    · rfl
  · rfl

theorem view_birth : holdView s.birth = holdView s := by
  unfold State.birth State.countBirth
  dsimp only
  split <;> rfl

theorem pitchAdvance_causes : KeepsCauses s s.pitchAdvance :=
  have hbefore : KeepsCauses s s.countPitch.advanceFiring.clearSeen := .of_view rfl
  (((hbefore.trans (.of_view (view_switchTest _))).trans (.of_view (view_birth _))).trans (arrivals_causes _)).trans
    (causes_of_firing (armAll_frame _))

/-! ### Wraps and counts (R5 to R8) -/

theorem setLineState_causes (new : LineState) : KeepsCauses s (s.setLineState new) :=
  (KeepsCauses.of_view (s := s) (t := s.withPu { s.pu with lineState := new }) rfl).trans
    (causes_of_firing (setLineState_frame s new))

theorem leaveStopped_causes (new : LineState) : KeepsCauses s (s.leaveStopped new) := by
  unfold State.leaveStopped
  split
  · exact (KeepsCauses.of_view (by rfl)).trans (setLineState_causes (s.withPu { s.pu with quiet := 0 }) new)
  · exact .refl s

theorem setAngle_causes (a : Nat) : KeepsCauses s (s.setAngle a) := .of_view rfl

theorem forwardTo_causes (a : Nat) : KeepsCauses s (s.forwardTo a) := by
  unfold State.forwardTo
  dsimp only
  split
  · exact ((setAngle_causes s a).trans (causes_of_pass (passForward_frame _ _ _ _))).trans
      (causes_of_firing (endPulses_frame _))
  · exact setAngle_causes s a

/-- The points of the new cycle are passed after a wrap, and the pulses they end, end. -/
theorem passNewCycle_causes (a : Nat) : KeepsCauses s (s.passForward 0 a 0).endPulses :=
  (causes_of_pass (passForward_frame s 0 a 0)).trans (causes_of_firing (endPulses_frame _))

theorem forwardWrap_causes (a : Nat) : KeepsCauses s (s.forwardWrap a) := by
  unfold State.forwardWrap
  split
  · exact (KeepsCauses.of_view (by rfl)).trans (passNewCycle_causes ((s.setBacklash false).setAngle a) a)
  · have hrest : KeepsCauses s (if s.pu.angle < 4095 then s.passForward s.pu.angle 4095 (1 + a) else s) := by
      split
      · exact causes_of_pass (passForward_frame s _ _ _)
      · exact .refl s
    exact (((hrest.trans (setAngle_causes _ a)).trans (pitchAdvance_causes _)).trans
      (causes_of_firing (expireLate_frame _))).trans (passNewCycle_causes _ a)

theorem countForward_causes : KeepsCauses s s.countForward := by
  have he (e : Nat) : KeepsCauses s (s.setE e) := .of_view rfl
  unfold State.countForward
  split
  · exact (he _).trans (forwardWrap_causes _ _)
  · exact (he _).trans (forwardTo_causes _ _)

theorem reverseWrap_causes : KeepsCauses s s.reverseWrap := by
  unfold State.reverseWrap
  split
  · exact raiseFault_causes s _ _
  · exact .of_view rfl

theorem countReverse_causes : KeepsCauses s s.countReverse := by
  unfold State.countReverse
  split
  · exact (KeepsCauses.of_view (by rfl)).trans
      (reverseWrap_causes ((s.setE (s.config.cpc - 1)).setAngle (angleOf (s.config.cpc - 1) s.config.cpc)))
  · exact .of_view rfl

theorem count_causes (d : Direction) : KeepsCauses s (s.count d) := by
  have hpu (v : PU) (h : v.config = s.pu.config) : KeepsCauses s (s.withPu v) :=
    .of_view (holdView_eq_iff.mpr ⟨rfl, rfl, congrArg LineConfig.backlog h, fun _ => rfl⟩)
  cases d with
  | forward => exact ((hpu _ (by rfl)).trans (leaveStopped_causes _ _)).trans (countForward_causes _)
  | reverse => exact ((hpu _ (by rfl)).trans (leaveStopped_causes _ _)).trans (countReverse_causes _)

/-! ### Encoder samples, additions and gates (R1 to R18) -/

theorem decodeCount_causes (a b : Option Bool) : KeepsCauses s (s.decodeCount a b) := by
  unfold State.decodeCount
  split
  · split
    · dsimp only
      unfold State.pulseDirection
      split
      · exact count_causes s _
      · exact (withFresh_causes s _).trans (count_causes _ _)
    · exact .refl s
  · split
    · split
      · exact .refl s
      · split
        · exact count_causes s _
        · exact .refl s
    · exact .refl s

theorem indexEdge_causes : KeepsCauses s s.indexEdge.1 := by
  unfold State.indexEdge
  split
  · unfold State.correctIndex
    split
    · exact .refl s
    · split
      · exact .of_view rfl
      · exact (KeepsCauses.of_view (by rfl)).trans (forwardWrap_causes (s.setE 0) 0)
  · exact .refl s

theorem raiseSampleFaults_causes (slip : Option Int) (q : Bool) : KeepsCauses s (s.raiseSampleFaults slip q) := by
  unfold State.raiseSampleFaults
  split
  · dsimp only
    split
    · exact ((withFresh_causes s _).trans (raiseFault_causes _ _ _)).trans (raiseFault_causes _ _ _)
    · exact ((withFresh_causes s _).trans (raiseFault_causes _ _ _)).trans (raiseFault_causes _ _ _)
  · exact raiseFault_causes s _ _
  · exact raiseFault_causes s _ _
  · exact .refl s

theorem acceptLevels_causes (a b z : Option Bool) : KeepsCauses s (s.acceptLevels a b z) := by
  have hlevels : KeepsCauses s (s.withPu { s.pu with
      encA := s.pu.encA.take a, encB := s.pu.encB.take b, encZ := s.pu.encZ.take z }) := .of_view rfl
  unfold State.acceptLevels
  dsimp only
  split
  · exact hlevels
  · have hcount := hlevels.trans (decodeCount_causes _ s.pu.encA.accepted s.pu.encB.accepted)
    split
    · exact (hcount.trans (indexEdge_causes _)).trans (raiseSampleFaults_causes _ _ _)
    · exact hcount.trans (raiseSampleFaults_causes _ _ _)

theorem encoderRun_causes (r : SampleRun) : KeepsCauses s (s.encoderRun r) :=
  (KeepsCauses.of_view (by rfl)).trans (causes_fold _ _ (fun t _ => acceptLevels_causes t _ _ _) _)

theorem addition_causes : KeepsCauses s s.addition := by
  have hadd (t : State) : KeepsCauses t t.addIncrement := by
    have hacc : KeepsCauses t (t.withPu { t.pu with
        dir := .forward, acc := (t.pu.acc + increment t.pu.sd) % accumulatorSize }) := .of_view rfl
    unfold State.addIncrement
    dsimp only
    split
    · exact hacc.trans (forwardWrap_causes _ _)
    · exact hacc.trans (forwardTo_causes _ _)
  unfold State.addition
  split
  · exact .refl s
  · split
    · exact (leaveStopped_causes s _).trans (hadd _)
    · exact hadd s

theorem stimulate_causes (via : Stimulus) : KeepsCauses s (s.stimulate via) := by
  cases via with
  | encoder r => exact encoderRun_causes s r
  | addition => exact addition_causes s

theorem gate_causes : KeepsCauses s s.gate := by
  have hencoder : KeepsCauses s s.gateEncoder := by
    unfold State.gateEncoder
    dsimp only
    split
    · exact .of_view rfl
    · exact .of_view rfl
  have hline (t : State) (q : Bool) : KeepsCauses t (t.gateLineState q) := by
    unfold State.gateLineState
    split
    · exact .refl t
    · exact (KeepsCauses.of_view (by rfl)).trans
        (setLineState_causes (t.withPu { t.pu with quiet := quietAfter t.pu.quiet q }) _)
  refine KeepsCauses.trans (KeepsCauses.trans ?_ (hline _ s.quietInterval)) (causes_of_firing (takeSpeed_frame _))
  split
  · exact hencoder
  · exact .of_view rfl

theorem elapse_causes (n : Nat) : KeepsCauses s (s.elapse n) := causes_of_firing (elapse_frame s n)

end Sys2Proof.Machine.HoldCauses
end

section
/-! PROOFS. Notice queues (R186, R187) and the laws of chapter 10: what a notice does to a port, what a command of the catalogue
leaves of the queues, which owner reaches the causes of HOLD, and that every step keeps the laws of HOLD, of the raise counts and
of the notice queues. -/

namespace Sys2Proof.Machine.NoticeQueues

open HoldCauses
open InspectionPoints (backOnline)
open BatchAndBoxes (leaveEntries anyCause_iff)
open TrimRegulation (NoReset)
open Verdicts (TrimFrame measure_trim)

/-! ### A notice at a port (R186) -/

theorem push_of_room {q : Port} (n : NoticeRecord) (h : q.queue.length < 32) :
    q.push n = { q with queue := q.queue ++ [n] } := if_pos h

theorem push_of_full {q : Port} (n : NoticeRecord) (h : 32 ≤ q.queue.length) : q.push n = { q with overflow := true } :=
  if_neg (Nat.not_lt.mpr h)

theorem push_atn (q : Port) (n : NoticeRecord) : (q.push n).atn = true := by
  unfold Port.atn
  by_cases h : q.queue.length < 32
  · simp [push_of_room n h]
  · have hne : q.queue ≠ [] := List.ne_nil_of_length_pos (by omega)
    simp [push_of_full n (Nat.le_of_not_lt h), hne]

/-- The queue of the second port is that of the first with, at most, more notices at its newest end, and an overflow flag that
is set stays set. -/
structure Grows (q r : Port) : Prop where
  queue : ∃ l, r.queue = q.queue ++ l
  overflow : q.overflow = true → r.overflow = true

section
variable {q r u : Port}

theorem grows_of_same (hq : r.queue = q.queue) (ho : r.overflow = q.overflow) : Grows q r where
  queue := ⟨[], by rw [hq, List.append_nil]⟩
  overflow h := ho.trans h

theorem Grows.refl (q : Port) : Grows q q := grows_of_same rfl rfl

theorem Grows.trans (h : Grows q r) (k : Grows r u) : Grows q u where
  queue := by
    obtain ⟨l, hl⟩ := h.queue
    obtain ⟨m, hm⟩ := k.queue
    exact ⟨l ++ m, by rw [hm, hl, List.append_assoc]⟩
  overflow := k.overflow ∘ h.overflow

theorem grows_of_portGrow (h : PortGrow q r) : Grows q r := by
  obtain ⟨-, -, -, -, -, hqueue, -, hoverflow⟩ := h
  exact ⟨hqueue, hoverflow⟩

/-- A queue that can only grow, and stays within its 32 places, stays as it is when it is full. -/
theorem Grows.queue_eq_of_full (h : Grows q r) (hfull : q.queue.length = 32) (hr : r.queue.length ≤ 32) :
    r.queue = q.queue := by
  obtain ⟨l, hl⟩ := h.queue
  have hnil : l = [] := List.eq_nil_of_length_eq_zero (by simp [hl] at hr; omega)
  rw [hl, hnil, List.append_nil]

end

/-! ### What a command keeps -/

/-- The port whose notices a command takes. -/
def taker : Instr → Option PortId
  | .noticeTake p => some p
  | _ => none

theorem taker_eq_some {c : Instr} {p : PortId} (h : taker c = some p) : c = .noticeTake p := by
  unfold taker at h
  split at h
  · cases h
    rfl
  · cases h

/-- What a command other than a reset keeps: the laws of HOLD and of the raise counts, every queue within its 32 places, and at
every port but the one whose notices it takes, the notices and the overflow flag. -/
structure Sound (taken : Option PortId) (s t : State) : Prop where
  causes : KeepsCauses s t
  limit : ∀ p, (s.port p).queue.length ≤ queueLimit → (t.port p).queue.length ≤ queueLimit
  grows : ∀ p, taken ≠ some p → Grows (s.port p) (t.port p)

section
variable {k : Option PortId} {s t u : State}

theorem Sound.refl (s : State) : Sound k s s := ⟨.refl s, fun _ => id, fun _ _ => .refl _⟩

theorem Sound.trans (h : Sound k s t) (j : Sound k t u) : Sound k s u :=
  ⟨h.causes.trans j.causes, fun p => j.limit p ∘ h.limit p, fun p hp => (h.grows p hp).trans (j.grows p hp)⟩

/-- Whatever makes notices and takes none. -/
theorem Sound.of_causes (h : KeepsCauses s t) (hports : ∀ p, PortGrow (s.port p) (t.port p)) : Sound k s t where
  causes := h
  limit p := by
    obtain ⟨-, -, -, -, -, -, hlimit, -⟩ := hports p
    exact hlimit
  grows p _ := grows_of_portGrow (hports p)

theorem Sound.of_keeps (h : KeepsCauses s t) (hk : Keeps s t) : Sound k s t := .of_causes h hk.ports

theorem sound_of_firing (h : FiringFrame s t) : Sound k s t := .of_causes (causes_of_firing h) h.ports

/-- Whatever reaches neither a cause nor a port. -/
theorem Sound.quiet (hv : holdView t = holdView s) (hp : t.ports = s.ports) : Sound k s t :=
  .of_causes (.of_view hv) fun p => by
    rw [State.port, State.port, hp]
    exact .refl _

/-- A port changes in anything but its notices and its overflow flag. -/
theorem setPort_sound (s : State) (p : PortId) {q : Port} (hq : q.queue = (s.port p).queue)
    (ho : q.overflow = (s.port p).overflow) : Sound k s (s.setPort p q) := by
  have hsame (x : PortId) : ((s.setPort p q).port x).queue = (s.port x).queue
      ∧ ((s.setPort p q).port x).overflow = (s.port x).overflow := by
    by_cases e : p = x
    · subst e
      rw [port_setPort_self]
      exact ⟨hq, ho⟩
    · rw [port_setPort_ne s q e]
      exact ⟨rfl, rfl⟩
  exact ⟨.of_view rfl, fun x => by rw [(hsame x).1]; exact id, fun x _ => grows_of_same (hsame x).1 (hsame x).2⟩

end

/-! ### Transfers and commands at a port (R179 to R181) -/

section
variable {k : Option PortId} (s : State) (p : PortId)

theorem transferred_same (q : Port) (bytes : List Byte) :
    (q.transferred p bytes).queue = q.queue ∧ (q.transferred p bytes).overflow = q.overflow := by
  unfold Port.transferred
  split
  · exact ⟨rfl, rfl⟩
  · split
    · split <;> exact ⟨rfl, rfl⟩
    · exact ⟨rfl, rfl⟩
    · exact ⟨rfl, rfl⟩
    · exact ⟨rfl, rfl⟩

theorem respond_same (q : Port) (held : Bool) :
    (q.respond held).queue = q.queue ∧ (q.respond held).overflow = q.overflow := by
  unfold Port.respond
  split <;> exact ⟨rfl, rfl⟩

theorem transfer_sound (bytes : List Byte) : Sound k s (s.transfer p bytes) :=
  setPort_sound s p (transferred_same p _ bytes).1 (transferred_same p _ bytes).2

theorem responseMade_sound (held : Bool) : Sound k s (s.setPort p ((s.port p).respond held)) :=
  setPort_sound s p (respond_same _ held).1 (respond_same _ held).2

theorem answerPort_sound (a : Answer) : Sound k s (s.answerPort p a) := setPort_sound s p rfl rfl

/-- A command row at a port does what its owner does, or nothing beside the transfer. -/
theorem takeCommand_sound (c : Instr) {own : Owner} (hown : ∀ t : State, Sound k t (own t).1) :
    Sound k s (s.takeCommand p c own) := by
  have hrun (t : State) : Sound k t (t.runOwner p own) := (hown t).trans (answerPort_sound _ p _)
  have hclocked : Sound k s (s.setPort p { s.port p with sent := zeros c.frame.length }) := setPort_sound s p rfl rfl
  unfold State.takeCommand
  dsimp only
  split
  · exact transfer_sound s p _
  · split
    · split
      · exact hclocked.trans (answerPort_sound _ p _)
      · exact hclocked.trans (hrun _)
    · split
      · exact hrun s
      · exact transfer_sound s p _
    · exact transfer_sound s p _
    · exact transfer_sound s p _

end

/-! ### The owners of reads and of notices -/

/-- An owner that keeps what a command keeps, at every port. -/
def SoundOwner (own : Owner) : Prop := ∀ s : State, Sound none s (own s).1

/-- An owner that answers and does nothing. -/
theorem sound_of_reads {own : Owner} (h : ∀ s, (own s).1 = s) : SoundOwner own := fun s => by
  rw [h s]
  exact .refl s

theorem ownReadConfig_sound (part : Nat) : SoundOwner (ownReadConfig part) := sound_of_reads fun s => by
  unfold ownReadConfig
  split <;> rfl

theorem ownReadRecord_sound (keyBy key : Nat) : SoundOwner (ownReadRecord keyBy key) := sound_of_reads fun s => by
  unfold ownReadRecord
  split <;> rfl

theorem ownBoxPeek_sound : SoundOwner ownBoxPeek := sound_of_reads fun s => by
  unfold ownBoxPeek
  split <;> rfl

/-- R187: NOTICE TAKE shortens its own port's queue and touches no other. -/
theorem ownNoticeTake_sound (p : PortId) (s : State) : Sound (some p) s (ownNoticeTake p s).1 where
  causes := .of_view rfl
  limit x hx := by
    unfold ownNoticeTake
    dsimp only
    by_cases e : p = x
    · subst e
      rw [port_setPort_self, List.length_drop]
      omega
    · rw [port_setPort_ne s _ e]
      exact hx
  grows x hx := by
    have e : p ≠ x := fun e => hx (congrArg some e)
    unfold ownNoticeTake
    dsimp only
    rw [port_setPort_ne s _ e]
    exact .refl _

/-! ### The owners of settings -/

theorem backlog_changeSource (u : PU) (src : Source) : (u.changeSource src).config.backlog = u.config.backlog := by
  cases src <;> rfl

/-- R23: the backlog is tested against the threshold of the new configuration. -/
theorem installConfig_sound (s : State) (c : LineConfig) : Sound none s (s.installConfig c) := by
  unfold State.installConfig
  dsimp only
  split
  · exact .refl s
  · generalize (if c.source = s.config.source then s.pu.changeConfig c
      else (s.pu.changeConfig c).changeSource c.source) = v
    have hspeed : FiringFrame (s.withPu v) (if s.pu.zeroesSpeed c then (s.withPu v).takeSpeed else s.withPu v) := by
      split
      · exact takeSpeed_frame _
      · exact .refl _
    exact .of_causes (testBacklog_causes hspeed.fh hspeed.iu (congrArg BQ.standing hspeed.bq))
      fun p => (hspeed.ports p).trans ((testBacklog_keeps _).ports p)

theorem ownLineConfig_sound (f : LineFields) : SoundOwner (ownLineConfig f) := fun s => by
  unfold ownLineConfig
  split
  · exact .refl s
  · split
    · exact .refl s
    · split
      · exact .refl s
      · split
        · exact .refl s
        · exact installConfig_sound s _

theorem ownSource_sound (source : Nat) : SoundOwner (ownSource source) := fun s => by
  unfold ownSource
  split
  · exact .refl s
  · rename_i src _
    have hpu : Sound none s (s.withPu (s.pu.changeSource src)) :=
      .quiet (holdView_eq_iff.mpr ⟨rfl, rfl, backlog_changeSource s.pu src, fun _ => rfl⟩) rfl
    split
    · exact .refl s
    · split
      · exact .refl s
      · dsimp only
        exact hpu.trans (sound_of_firing (takeSpeed_frame _))

theorem ownDrive_sound (target ramp : Nat) : SoundOwner (ownDrive target ramp) := fun s => by
  unfold ownDrive
  split
  · exact .refl s
  · split
    · exact .refl s
    · exact .quiet rfl rfl

theorem ownProbeConfig_sound (f : ProbeFields) : SoundOwner (ownProbeConfig f) := fun s => by
  unfold ownProbeConfig
  split
  · exact .refl s
  · exact .quiet rfl rfl

theorem ownOutputConfig_sound (f : OutputFields) : SoundOwner (ownOutputConfig f) := fun s => by
  have hinstall (o : OutId) (c : OutputConfig) : Sound none s (s.installOutput o c) :=
    have hset (t : State) (u : OutputUnit) : Sound none t (t.setOutput o u) := .quiet rfl rfl
    ((sound_of_firing (endWork_frame s o)).trans (hset _ _)).trans (sound_of_firing (recomputeOutput_frame _ o))
  unfold ownOutputConfig
  split
  · exact .refl s
  · split
    · exact .refl s
    · split
      · exact .refl s
      · split
        · exact .refl s
        · exact hinstall _ _

/-- The Trim Regulator reaches no cause, and makes notices alone. -/
theorem sound_of_trim {s t : State} (h : TrimFrame s t) : Sound none s t :=
  Sound.trans (t := s.withTr t.tr) (.quiet rfl rfl) (sound_of_firing h)

theorem setGroup_takeTrim_sound (s : State) (g : Fin 3) (u : TrimGroup) : Sound none s ((s.setGroup g u).takeTrim g) :=
  Sound.trans (t := s.setGroup g u) (.quiet rfl rfl) (sound_of_firing (takeTrim_frame _ g))

theorem ownTrimConfig_sound (f : TrimFields) : SoundOwner (ownTrimConfig f) := fun s => by
  unfold ownTrimConfig
  split
  · exact .refl s
  · dsimp only
    split
    · exact .refl s
    · unfold State.installTrim
      dsimp only
      split
      · exact .quiet rfl rfl
      · exact setGroup_takeTrim_sound s _ _

theorem ownSetTrim_sound (group value : Nat) : SoundOwner (ownSetTrim group value) := fun s => by
  unfold ownSetTrim
  split
  · exact .refl s
  · split
    · exact .refl s
    · unfold State.assignTrim
      dsimp only
      split
      · exact .quiet rfl rfl
      · exact setGroup_takeTrim_sound s _ _

/-- R109, R123: a point back ONLINE has its hold cause withdrawn with it. -/
theorem backOnline_sound (s : State) (i : Fin 4) (c : PointConfig) : Sound none s (backOnline s i c).refreshHold :=
  have hcauses : KeepsCauses s ((s.setPoint i ⟨c, false, 0⟩).setOffline i false) :=
    setOffline_causes (u := ⟨c, false, 0⟩) rfl
  .of_causes hcauses (refreshHold_keeps (backOnline s i c)).ports

theorem ownPointConfig_sound (f : PointFields) : SoundOwner (ownPointConfig f) := fun s => by
  unfold ownPointConfig
  split
  · exact .refl s
  · split
    · exact .refl s
    · split
      · exact .refl s
      · split
        · exact .refl s
        · exact backOnline_sound s _ _

theorem ownPointResume_sound (p : PortId) (point : Nat) : SoundOwner (ownPointResume p point) := fun s => by
  unfold ownPointResume
  split
  · exact .refl s
  · dsimp only
    split
    · exact .refl s
    · split
      · exact .refl s
      · split
        · exact .refl s
        · exact backOnline_sound s _ _

theorem ownTestPulse_sound (output duration : Nat) : SoundOwner (ownTestPulse output duration) := fun s => by
  unfold ownTestPulse
  split
  · exact .refl s
  · split
    · exact .refl s
    · split
      · exact .refl s
      · split
        · exact .refl s
        · split
          · exact .refl s
          · exact .quiet rfl rfl

/-! ### The owners of recipes, jobs, records and boxes -/

theorem ownPutSegments_sound (first count : Nat) (segs : List (Nat × Nat)) :
    SoundOwner (ownPutSegments first count segs) := fun s => by
  unfold ownPutSegments State.putSegments
  dsimp only
  split
  · split
    · exact .refl s
    · split
      · exact .refl s
      · exact .quiet rfl rfl
  · exact .refl s

theorem ownPutProfile_sound (profile first count : Nat) (tag : Option (Vector Byte 8)) :
    SoundOwner (ownPutProfile profile first count tag) := fun s => by
  unfold ownPutProfile State.putProfile
  split
  · split
    · split
      · exact .refl s
      · split
        · exact .quiet rfl rfl
        · exact .refl s
    · exact .refl s
  · exact .refl s

theorem ownPutRecipe_sound (slot content : Nat) (recipe : Option RecipeFields) :
    SoundOwner (ownPutRecipe slot content recipe) := fun s => by
  unfold ownPutRecipe State.putRecipe
  split
  · split
    · exact .refl s
    · split
      · exact .quiet rfl rfl
      · split
        · exact .quiet rfl rfl
        · exact .refl s
  · exact .refl s

theorem ownNextJob_sound (slot mode : Nat) (n : Option Nat) : SoundOwner (ownNextJob slot mode n) := fun s => by
  unfold ownNextJob
  split
  · split
    · exact .refl s
    · split
      · exact .refl s
      · split
        · exact .refl s
        · exact .quiet rfl rfl
  · exact .refl s

theorem ownCancelJob_sound : SoundOwner ownCancelJob := fun s => by
  unfold ownCancelJob
  split
  · exact .quiet rfl rfl
  · exact .refl s

theorem ownSplice_sound (n : Nat) : SoundOwner (ownSplice n) := fun s => by
  unfold ownSplice
  split
  · exact .refl s
  · exact .quiet rfl rfl

/-- R64: TRACK CLEAR makes the notices of its close and of the ending run, and no others. -/
theorem trackCleared_ports (s : State) (p : PortId) : PortGrow (s.port p) (s.trackCleared.port p) :=
  ((clearBatch_keeps s).trans (completeEnding_keeps s.clearBatch)).ports p

theorem ownTrackClear_sound : SoundOwner ownTrackClear := fun s => by
  unfold ownTrackClear
  split
  · exact .refl s
  · split
    · exact .refl s
    · exact .of_causes (trackCleared_causes s) (trackCleared_ports s)

theorem clearFaults_ports (s : State) (p : PortId) : PortGrow (s.port p) (s.clearFaults.port p) := by
  cases h : s.fh.tracking with
  | false =>
    rw [clearFaults_of_none s h]
    exact .refl _
  | true =>
    rw [clearFaults_of_tracking s h]
    exact (refreshHold_keeps (unlatched s)).ports p

theorem ownFaultClear_sound : SoundOwner ownFaultClear := fun s => .of_causes (clearFaults_causes s) (clearFaults_ports s)

theorem ownForceReject_sound (seq : Nat) : SoundOwner (ownForceReject seq) := fun s => by
  unfold ownForceReject
  split
  · exact .refl s
  · exact .refl s
  · split
    · exact .quiet rfl rfl
    · exact .refl s

theorem ownPullSample_sound (n : Nat) : SoundOwner (ownPullSample n) := fun s => by
  unfold ownPullSample
  split
  · exact .refl s
  · exact .quiet rfl rfl

theorem handMeasurement_sound (s : State) (v : VerdictFields) : Sound none s (s.handMeasurement v) := by
  unfold State.handMeasurement
  split
  · exact sound_of_trim (measure_trim s _ _ _)
  · exact .refl s

/-- R115: an accepted verdict sets its point's count and leaves the point state. -/
theorem acceptVerdict_sound (s : State) (v : VerdictFields) (pos : Nat) : Sound none s (s.acceptVerdict v pos) :=
  have hwritten : Sound none s (s.modifyAt pos fun r => r.judged v) := .quiet rfl rfl
  (hwritten.trans (handMeasurement_sound _ v)).trans (.quiet (view_setPoint (by rfl)) (by rfl))

theorem ownVerdict_sound (p : PortId) (point seq result m : Nat) (codes : List Nat) :
    SoundOwner (ownVerdict p point seq result m codes) := fun s => by
  unfold ownVerdict
  split
  · exact .refl s
  · dsimp only
    split
    · exact .refl s
    · split
      · exact .refl s
      · split
        · exact .refl s
        · exact .refl s
        · split
          · exact .refl s
          · exact acceptVerdict_sound s _ _

theorem ownBoxTake_sound : SoundOwner ownBoxTake := fun s => by
  unfold ownBoxTake
  split
  · rename_i e rest _
    exact .of_causes (testBacklog_causes (t := leaveEntries s rest) rfl rfl rfl) (testBacklog_keeps (leaveEntries s rest)).ports
  · exact .refl s

theorem ownCloseBatch_sound : SoundOwner ownCloseBatch := fun s => by
  unfold ownCloseBatch
  split
  · exact .refl s
  · split
    · exact .refl s
    · exact .quiet rfl rfl

/-! ### Every command -/

section
variable {s : State} {c : Instr} {t : State}

theorem sound_of_next {k : Option PortId} {u : State} (h : (.next u : Host.Outcome State Fault Refusal) = .next t)
    (hu : Sound k s u) : Sound k s t := by
  cases h
  exact hu

/-- A command of the catalogue whose owner is sound, at its port. -/
theorem sound_of_owner {own : Owner} {p : PortId} {c : Instr}
    (h : (.next (s.takeCommand p c own) : Host.Outcome State Fault Refusal) = .next t) (hown : SoundOwner own) :
    Sound none s t := sound_of_next h (takeCommand_sound s p c hown)

theorem exec_sound (h : exec c s = .next t) (hr : NoReset c) : Sound (taker c) s t := by
  cases c with
  | powerOn pins => exact absurd rfl (hr pins).1
  | resetPin pins => exact absurd rfl (hr pins).2
  | noticeTake p => exact sound_of_next h (takeCommand_sound s p _ (ownNoticeTake_sound p))
  | encoderCount run => exact sound_of_next h (.of_keeps (encoderRun_causes s run) (encoderRun_keeps s run))
  | quadratureError run => exact sound_of_next h (.of_keeps (encoderRun_causes s run) (encoderRun_keeps s run))
  | indexEdge run => exact sound_of_next h (.of_keeps (encoderRun_causes s run) (encoderRun_keeps s run))
  | acceptedLevelChange run => exact sound_of_next h (.of_keeps (encoderRun_causes s run) (encoderRun_keeps s run))
  | internalAddition => exact sound_of_next h (.of_keeps (addition_causes s) (addition_keeps s))
  | speedGate => exact sound_of_next h (.of_keeps (gate_causes s) (gate_keeps s))
  | quietGateStop => exact sound_of_next h (.of_keeps (gate_causes s) (gate_keeps s))
  | probeSample levels => exact sound_of_next h (.quiet rfl rfl)
  | switch via => exact sound_of_next h (.of_keeps (stimulate_causes s via) (stimulate_keeps s via))
  | forcedClose via => exact sound_of_next h (.of_keeps (stimulate_causes s via) (stimulate_keeps s via))
  | testPulseEnd o => exact sound_of_next h (sound_of_firing (elapse_frame s _))
  | frameReceived p bytes => exact sound_of_next h (transfer_sound s p bytes)
  | overlapTransfer p bytes => exact sound_of_next h (transfer_sound s p bytes)
  | responseMade made => exact sound_of_next h (responseMade_sound s made.port made.selHeld)
  | responseRead p bytes => exact sound_of_next h (transfer_sound s p bytes)
  | readStatus p => exact sound_of_owner h (sound_of_reads fun _ => rfl)
  | readConfig p part => exact sound_of_owner h (ownReadConfig_sound part)
  | readRecord p keyBy key => exact sound_of_owner h (ownReadRecord_sound keyBy key)
  | readSegments p first count => exact sound_of_owner h (sound_of_reads fun _ => rfl)
  | readProfile p profile => exact sound_of_owner h (sound_of_reads fun _ => rfl)
  | readRecipe p slot => exact sound_of_owner h (sound_of_reads fun _ => rfl)
  | readBatch p => exact sound_of_owner h (sound_of_reads fun _ => rfl)
  | boxPeek p => exact sound_of_owner h ownBoxPeek_sound
  | lineConfig p f => exact sound_of_owner h (ownLineConfig_sound f)
  | source p src => exact sound_of_owner h (ownSource_sound src)
  | drive p target ramp => exact sound_of_owner h (ownDrive_sound target ramp)
  | probeConfig p f => exact sound_of_owner h (ownProbeConfig_sound f)
  | outputConfig p f => exact sound_of_owner h (ownOutputConfig_sound f)
  | trimConfig p f => exact sound_of_owner h (ownTrimConfig_sound f)
  | pointConfig p f => exact sound_of_owner h (ownPointConfig_sound f)
  | putSegments p first count segs => exact sound_of_owner h (ownPutSegments_sound first count segs)
  | putProfile p profile first count tag => exact sound_of_owner h (ownPutProfile_sound profile first count tag)
  | putRecipe p slot content recipe => exact sound_of_owner h (ownPutRecipe_sound slot content recipe)
  | nextJob p slot mode n => exact sound_of_owner h (ownNextJob_sound slot mode n)
  | cancelJob p => exact sound_of_owner h ownCancelJob_sound
  | splice p n => exact sound_of_owner h (ownSplice_sound n)
  | trackClear p => exact sound_of_owner h ownTrackClear_sound
  | faultClear p => exact sound_of_owner h ownFaultClear_sound
  | forceReject p seq => exact sound_of_owner h (ownForceReject_sound seq)
  | pullSample p n => exact sound_of_owner h (ownPullSample_sound n)
  | verdict p point seq result m codes => exact sound_of_owner h (ownVerdict_sound p point seq result m codes)
  | pointResume p point => exact sound_of_owner h (ownPointResume_sound p point)
  | setTrim p group value => exact sound_of_owner h (ownSetTrim_sound group value)
  | testPulse p output duration => exact sound_of_owner h (ownTestPulse_sound output duration)
  | boxTake p => exact sound_of_owner h ownBoxTake_sound
  | closeBatch p => exact sound_of_owner h ownCloseBatch_sound

/-! ### Resets (R177, R188) -/

theorem afterReset_holdLaw (cause : ResetCause) (pins : ResetPins) (fresh : Nat) (pending : List Instr) :
    (State.afterReset cause pins fresh pending).holdLaw := by
  refine ⟨rfl, fun i => ?_, rfl, rfl⟩
  simp [State.afterReset, State.point, FH.powerOn, IU.powerOn, PointUnit.powerOn]

theorem afterReset_faultLaw (cause : ResetCause) (pins : ResetPins) (fresh : Nat) (pending : List Instr) :
    (State.afterReset cause pins fresh pending).faultLaw := fun f => by
  cases f <;> rfl

theorem afterReset_noticeLaw (cause : ResetCause) (pins : ResetPins) (fresh : Nat) (pending : List Instr) :
    (State.afterReset cause pins fresh pending).noticeLaw := by
  have hport : ∀ p : PortId, ∃ x, ((State.afterReset cause pins fresh pending).port p) = .afterReset cause x := by
    intro p
    match p with
    | 0 => exact ⟨pins.p0, rfl⟩
    | 1 => exact ⟨pins.p1, rfl⟩
    | 2 => exact ⟨pins.p2, rfl⟩
    | 3 => exact ⟨pins.p3, rfl⟩
  intro p
  obtain ⟨x, hx⟩ := hport p
  rw [hx]
  exact Nat.le_of_ble_eq_true rfl

/-! ### Every step -/

/-- A step that is no reset is sound; a reset leaves the values of power-on. -/
theorem exec_cases (h : exec c s = .next t) : Sound (taker c) s t
    ∨ ∃ cause pins, t = .afterReset cause pins s.fresh s.pending := by
  by_cases hr : NoReset c
  · exact .inl (exec_sound h hr)
  · have hreset : ∃ pins, c = .powerOn pins ∨ c = .resetPin pins := by
      simpa only [NoReset, Classical.not_forall, Classical.not_and_iff_not_or_not, Classical.not_not] using hr
    obtain ⟨pins, rfl | rfl⟩ := hreset
    · cases h
      exact .inr ⟨_, pins, rfl⟩
    · cases h
      exact .inr ⟨_, pins, rfl⟩

theorem step_cases (h : step s = .next t) : (∃ k, Sound k s t)
    ∨ ∃ cause pins fresh pending, t = .afterReset cause pins fresh pending := by
  unfold step at h
  split at h
  · rename_i c rest _
    have hrest : Sound (taker c) s (s.withPending rest) := .quiet rfl rfl
    obtain hs | ⟨cause, pins, ht⟩ := exec_cases h
    · exact .inl ⟨_, hrest.trans hs⟩
    · exact .inr ⟨cause, pins, _, _, ht⟩
  · cases h
    exact .inl ⟨none, sound_of_firing (elapse_frame s 1)⟩

theorem step_keeps_holdLaw (hs : s.holdLaw) (h : step s = .next t) : t.holdLaw := by
  obtain ⟨k, hk⟩ | ⟨cause, pins, fresh, pending, rfl⟩ := step_cases h
  · exact hk.causes.hold hs
  · exact afterReset_holdLaw cause pins fresh pending

theorem step_keeps_faultLaw (hs : s.faultLaw) (h : step s = .next t) : t.faultLaw := by
  obtain ⟨k, hk⟩ | ⟨cause, pins, fresh, pending, rfl⟩ := step_cases h
  · exact hk.causes.fault hs
  · exact afterReset_faultLaw cause pins fresh pending

theorem step_keeps_noticeLaw (hs : s.noticeLaw) (h : step s = .next t) : t.noticeLaw := by
  obtain ⟨k, hk⟩ | ⟨cause, pins, fresh, pending, rfl⟩ := step_cases h
  · exact fun p => hk.limit p (hs p)
  · exact afterReset_noticeLaw cause pins fresh pending

end

/-- R174, R151: the law of HOLD with its causes spelled out. -/
theorem hold_iff_of_holdLaw {s : State} (h : s.holdLaw) : s.fh.hold = true ↔
    (s.fh.reverseOverrun.latched = true ∨ s.fh.indexSlip.latched = true ∨ s.fh.quadratureError.latched = true)
      ∨ (∃ i : Fin 4, (s.point i).offline = true) ∨ s.config.backlog ≤ s.bq.entries.length := by
  obtain ⟨hhold, hoffline, hbacklog, hstanding⟩ := h
  have htracking : s.fh.faults ≠ ⟨false, false, false⟩ ↔ (s.fh.reverseOverrun.latched = true
      ∨ s.fh.indexSlip.latched = true ∨ s.fh.quadratureError.latched = true) := by
    rw [← BatchAndBoxes.tracking_iff]
    simp only [FH.tracking, Bool.or_eq_true, or_assoc]
  rw [hhold, anyCause_iff, htracking, hbacklog, hstanding, decide_eq_true_eq, or_assoc]
  simp only [hoffline, State.occupancy]

/-- Settles O55: an operation either leaves what the law of HOLD reads, or ends by setting HOLD to the level of the causes; the
test of the backlog follows every change of the entries and of the threshold. -/
theorem holdLawIsKept : Obligations.HoldLawIsKept := by
  unfold Obligations.HoldLawIsKept
  exact ⟨fun s t hs h => step_keeps_holdLaw hs h, fun s hs => hold_iff_of_holdLaw hs⟩

/-- Settles O60: a notice joins or is lost by `Port.push` alone, and no command but a reset and NOTICE TAKE does anything else
to a queue or an overflow flag. -/
theorem faultAndNoticeLawsAreKept : Obligations.FaultAndNoticeLawsAreKept := by
  unfold Obligations.FaultAndNoticeLawsAreKept
  refine ⟨fun s t hf hn h => ⟨step_keeps_faultLaw hf h, step_keeps_noticeLaw hn h⟩,
    fun s dest n => ⟨notify_eq s dest n, fun p => ⟨fun hd => ?_, fun hd hroom => ?_, fun hd hfull => ?_, fun hd => ?_⟩⟩,
    fun c s t p h hr hc => ?_⟩
  · rw [notify_port, hd]
    rfl
  · rw [notify_port, if_pos hd, push_of_room _ hroom]
  · rw [notify_port, if_pos hd, push_of_full _ hfull]
  · rw [notify_port, if_pos hd, push_atn]
  · have hs := exec_sound h hr
    have hgrows := hs.grows p fun htaken => hc (taker_eq_some htaken)
    exact ⟨hgrows.overflow, fun hfull => hgrows.queue_eq_of_full hfull (hs.limit p (Nat.le_of_eq hfull))⟩

end Sys2Proof.Machine.NoticeQueues
end

section
/-! PROOFS. FAULT CLEAR (R172): the answer, the state after it by the two cases of the latched set, and the birth after it. -/

namespace Sys2Proof.Machine.FaultClear

open HoldCauses (unlatched clearFaults_of_tracking clearFaults_of_none)
open NoticeQueues (clearFaults_ports)
open InspectionPoints (refreshHold_eq refreshHold_fh refreshHold_of_eq holdChanged_mem)
open BatchAndBoxes (anyCause_iff)
open Verdicts (hasCode_addDefects)

/-! ### The answer -/

/-- The latched faults as the byte that answers carry, REVERSE OVERRUN in bit 0 (R182). -/
def latchedByte (h : FH) : Nat :=
  (if h.reverseOverrun.latched then 1 else 0) + (if h.indexSlip.latched then 2 else 0)
    + (if h.quadratureError.latched then 4 else 0)

theorem faults_byte (h : FH) : h.faults.byte = byte1 (latchedByte h) := by
  unfold FaultSet.byte FH.faults latchedByte
  cases h.reverseOverrun.latched <;> cases h.indexSlip.latched <;> cases h.quadratureError.latched <;> rfl

theorem latchedByte_eq_zero_iff (h : FH) : latchedByte h = 0 ↔ h.tracking = false := by
  unfold latchedByte FH.tracking
  cases h.reverseOverrun.latched <;> cases h.indexSlip.latched <;> cases h.quadratureError.latched <;> decide

theorem exec_faultClear {s t : State} {p : PortId} (h : s.reaches p (.faultClear p) t) :
    exec (.faultClear p) s = .next (t.clearFaults.answerPort p (.okWith (byte1 (latchedByte t.fh)
      ++ byte1 t.fh.reverseOverrun.count ++ byte1 t.fh.indexSlip.count ++ byte1 t.fh.quadratureError.count))) := by
  rw [← faults_byte]
  exact congrArg Host.Outcome.next (takeCommand_reaches s ownFaultClear h)

/-! ### The state after it -/

section
variable (t : State)

/-- No fault is latched after a FAULT CLEAR. -/
theorem clearFaults_tracking : t.clearFaults.fh.tracking = false := by
  cases h : t.fh.tracking with
  | false => rw [clearFaults_of_none t h, h]
  | true =>
    rw [clearFaults_of_tracking t h, refreshHold_fh]
    rfl

/-- FAULT CLEAR reaches the Fault and Hold Logic and the ports alone. -/
theorem clearFaults_eq : t.clearFaults = (t.withFh t.clearFaults.fh).withPorts t.clearFaults.ports := by
  cases h : t.fh.tracking with
  | false =>
    rw [clearFaults_of_none t h]
    rfl
  | true =>
    rw [clearFaults_of_tracking t h, refreshHold_eq]
    rfl

/-- HOLD CHANGED is the only notice, made where the level of HOLD changes (R176). -/
theorem clearFaults_ports_of_hold (h : t.clearFaults.fh.hold = t.fh.hold) : t.clearFaults.ports = t.ports := by
  cases hk : t.fh.tracking with
  | false => rw [clearFaults_of_none t hk]
  | true =>
    rw [clearFaults_of_tracking t hk] at h ⊢
    rw [refreshHold_fh] at h
    rw [refreshHold_of_eq _ h]
    rfl

variable {t} (h : t.fh.tracking = true)
include h

theorem clearFaults_fh : t.clearFaults.fh
    = ⟨⟨false, 0⟩, ⟨false, 0⟩, ⟨false, 0⟩, t.fh.offline, t.fh.backlog, t.clearFaults.fh.hold⟩ := by
  rw [clearFaults_of_tracking t h, refreshHold_fh]
  rfl

/-- HOLD follows the causes that stand without the faults (R174). -/
theorem clearFaults_hold_iff : t.clearFaults.fh.hold = true ↔ (∃ i : Fin 4, t.fh.offline[i] = true) ∨ t.fh.backlog = true := by
  rw [clearFaults_of_tracking t h, refreshHold_fh]
  exact (anyCause_iff (unlatched t).fh).trans (or_congr_left (or_iff_right fun hne => hne rfl))

theorem clearFaults_holdChanged (hne : t.clearFaults.fh.hold ≠ t.fh.hold) {q : PortId} (hrole : (t.port q).role = .line)
    (hroom : (t.port q).queue.length < 32) : (⟨t.pu.pitch, .holdChanged t.clearFaults.fh.hold ⟨false, false, false⟩
      t.fh.offline t.fh.backlog⟩ : NoticeRecord) ∈ (t.clearFaults.port q).queue := by
  rw [clearFaults_of_tracking t h, refreshHold_fh] at hne ⊢
  exact holdChanged_mem (unlatched t) hne q hrole hroom

end

/-! ### The next birth (R47, R110) -/

theorem hasCode_timeOut (r : Record) (i : Fin 4) (policy : TimeoutPolicy) :
    hasCode (r.timeOut i policy).defects Code.disturbed = hasCode r.defects Code.disturbed := by
  cases policy with
  | pass => rfl
  | reject =>
    have hne : Code.verdictTimeout ≠ Code.disturbed := by decide
    simp [Record.timeOut, Record.addDefect, Record.setStatus, hasCode_addCode, hne]

/-- The points that are disabled leave DISTURBED as the newborn has it. -/
theorem hasCode_timeOutDisabled (s : State) (r : Record) :
    hasCode (s.timeOutDisabled r).defects Code.disturbed = hasCode r.defects Code.disturbed := by
  unfold State.timeOutDisabled
  induction allPoints generalizing r with
  | nil => rfl
  | cons i l ih =>
    rw [List.foldl_cons, ih]
    split
    · exact hasCode_timeOut r i _
    · rfl

theorem disturbed_not_mem_birthDefects {s : State} (h : s.fh.tracking = false) (recipe : Option Recipe) :
    Code.disturbed ∉ s.birthDefects recipe := by
  have hsplice : Code.disturbed ≠ Code.splice := by decide
  have hramp : Code.disturbed ≠ Code.ramp := by decide
  unfold State.birthDefects
  rw [h]
  simp only [List.mem_append, not_or]
  refine ⟨⟨?_, ?_⟩, ?_⟩
  · split <;> simp [hsplice]
  · split
    · split <;> simp [hramp]
    · simp
  · simp

/-- A record born while no fault is latched is born without DISTURBED. -/
theorem nextBirth_undisturbed {s : State} (h : s.fh.tracking = false) :
    hasCode s.nextBirth.defects Code.disturbed = false := by
  unfold State.nextBirth
  rw [hasCode_timeOutDisabled, Bool.eq_false_iff]
  unfold State.newborn
  rw [ne_eq, hasCode_addDefects, not_or]
  exact ⟨by simp [hasCode], disturbed_not_mem_birthDefects h _⟩

theorem birth_recordAt_zero (s : State) : s.birth.recordAt 0 = some s.nextBirth := by
  unfold State.birth State.countBirth
  dsimp only
  split <;> rfl

/-- Settles O46: with a fault latched, HOLD follows the other causes once the latches are cleared; with none, nothing happens. -/
theorem faultClearRemovesTheFaults : Obligations.FaultClearRemovesTheFaults := by
  unfold Obligations.FaultClearRemovesTheFaults
  intro p s t h
  refine ⟨t.clearFaults, latchedByte t.fh, exec_faultClear h, rfl, fun hnone => ?_, fun hsome => ?_,
    clearFaults_ports_of_hold t, fun r hr => ?_, clearFaults_eq t, clearFaults_ports t⟩
  · exact clearFaults_of_none t ((latchedByte_eq_zero_iff t.fh).mp hnone)
  · have htracking : t.fh.tracking = true :=
      Bool.of_not_eq_false fun hnone => hsome ((latchedByte_eq_zero_iff t.fh).mpr hnone)
    exact ⟨clearFaults_fh htracking, clearFaults_hold_iff htracking,
      fun hne q hrole hroom => clearFaults_holdChanged htracking hne hrole hroom⟩
  · rw [birth_recordAt_zero, Option.some.injEq] at hr
    rw [← hr]
    exact nextBirth_undisturbed (clearFaults_tracking t)

end Sys2Proof.Machine.FaultClear
end
